-- ==== Sys2Proof/Word.lean ====
section
/-! DEFINITION. The word types of the block: bytes of the tables and of the blob, 16-bit thresholds and
frequencies, 32-bit registers (spec 00_scope.md R12: every quantity is unsigned, nothing is sign-extended). -/

namespace Sys2Proof

/-- One byte: a bar index of a BandTable, or a byte of the OutputBlob (R10). -/
abbrev Byte := BitVec 8

/-- A 16-bit quantity: a threshold entry (R31) or the ARG field of a command (R70). -/
abbrev Half := BitVec 16

/-- A 32-bit quantity: a register, a command word, the data path of the bus (R50). -/
abbrev Word := BitVec 32

end Sys2Proof
end

