-- ==== Sys2Proof/Config.lean ====
section
/-! DEFINITION. What is fixed for the block and is no state: the sizes of its tables.

The spec leaves two parameters open (00_scope.md R11). `LAT`, the time between the acceptance and the completion of a
long command, is no constant here: the completion's position in the event order is an INPUT, held in
`State.pending` (notes/assumptions/3.md). `BUS_PROTOCOL` lies below the transaction level of the spec and has no
counterpart (notes/assumptions/4.md). No result of the block is left open, so there is no free value. -/

namespace Sys2Proof.Config

/-- Entries of one BandTable (R10). -/
def bandEntries : Nat := 256

/-- Entries of the threshold storage `THR[0..=256]` (R31). -/
def thrEntries : Nat := 257

/-- The largest legal bar count (R7). -/
def maxBars : Nat := 256

/-- Bytes of the OutputBlob (R10). -/
def blobBytes : Nat := 768

end Sys2Proof.Config
end

