-- ==== Sys2Proof/Syntax.lean ====
section
/-! DEFINITION. The command set (spec 30_encoding.md R71): one constructor of `Instr` per row of
spec/opcode_table.json, operands in decoded form. -/

namespace Sys2Proof

/-- The three sub-ranges, numbered 0, 1, 2 in this order (R15). The RANGE value 3 has no constructor: a word that
holds it is no command (R73). -/
inductive Range where
  | low
  | mid
  | high
deriving DecidableEq, Repr

/-- The two encoding schemes (R9, R80). -/
inductive Scheme where
  | variantA
  | variantB
deriving DecidableEq, Repr

/-- The nine commands. Operands are as R72 decodes them: a range, a 16-bit frequency, an 8-bit table index. -/
inductive Instr where
  /-- NOP (R156). -/
  | nop
  /-- GEN_THR (R109). -/
  | genThr
  /-- BUILD of one range (R129). -/
  | build (range : Range)
  /-- COMMIT (R153). -/
  | commit
  /-- RUN (R154). -/
  | run
  /-- RESOLVE of one frequency with one range's clamp rule (R131). -/
  | resolve (range : Range) (freq : Half)
  /-- QFREQ of one index of one range (R133). -/
  | qfreq (range : Range) (idx : Byte)
  /-- CLRERR (R157). -/
  | clrerr
  /-- SRESET (R158). -/
  | sreset
deriving DecidableEq, Repr

end Sys2Proof
end

