-- ==== Sys2Proof/WellFormed.lean ====
section
/-! DEFINITION. Which command words are well formed (spec 30_encoding.md R70, R71, R73): one named check per
condition of R73, written on the word itself and independent of the decoder. The decoded syntax `Instr` needs no check of its
own: its operand types (`Range`, `Half`, `Byte`) hold exactly the legal operand values. -/

namespace Sys2Proof.WellFormed

/-- `w[hi:lo]` as a number (R12). -/
def bits (w : Word) (hi lo : Nat) : Nat :=
  w.toNat / 2 ^ lo % 2 ^ (hi + 1 - lo)

/-- The opcode is one of the nine assigned ones; 0x9 to 0xF are reserved (R71). -/
def opAssigned (w : Word) : Bool :=
  decide (bits w 3 0 ≤ 8)

/-- RSV, bits 15:6, is 0 (R70). -/
def reservedClear (w : Word) : Bool :=
  bits w 15 6 == 0

/-- The opcode is one that uses RANGE: BUILD, RESOLVE or QFREQ (R71). -/
def usesRange (w : Word) : Bool :=
  bits w 3 0 == 2 || bits w 3 0 == 5 || bits w 3 0 == 6

/-- A command without a range has RANGE = 0 (R73). -/
def rangeUnusedClear (w : Word) : Bool :=
  usesRange w || bits w 5 4 == 0

/-- A command with a range does not have RANGE = 3 (R73). -/
def rangeNotReserved (w : Word) : Bool :=
  !usesRange w || bits w 5 4 != 3

/-- A command other than RESOLVE and QFREQ has ARG = 0 (R73). -/
def argUnusedClear (w : Word) : Bool :=
  bits w 3 0 == 5 || bits w 3 0 == 6 || bits w 31 16 == 0

/-- QFREQ has ARG[15:8] = 0 (R73). -/
def indexFitsByte (w : Word) : Bool :=
  bits w 3 0 != 6 || bits w 31 24 == 0

/-- A legal command word: every check of R73 passes. -/
def legalWord (w : Word) : Bool :=
  opAssigned w && reservedClear w && rangeUnusedClear w && rangeNotReserved w && argUnusedClear w
    && indexFitsByte w

end Sys2Proof.WellFormed
end

