-- ==== Sys2Proof/Decode.lean ====
section
/-! DEFINITION. The decoder of a command word (spec 30_encoding.md R72, R73), total on every 32-bit word and rejecting by name,
and the encoder, written from the same field table (R70, R71). -/

namespace Sys2Proof

/-- Why a word is ILLEGAL, one name per condition of R73. The block itself records the one code CMD_ILLEGAL for all of
them (R74). -/
inductive DecodeError where
  /-- OP is one of the reserved opcodes 0x9 to 0xF. -/
  | reservedOpcode
  /-- RSV, bits 15:6, is not 0. -/
  | reservedBits
  /-- RANGE is not 0 on a command that has no range. -/
  | rangeNotUsed
  /-- RANGE is 3 on a command that has a range. -/
  | rangeReserved
  /-- ARG is not 0 on a command that has no argument. -/
  | argNotUsed
  /-- ARG[15:8] is not 0 on QFREQ. -/
  | indexTooWide
deriving DecidableEq, Repr

/-- OP, bits 3:0 (R70). -/
def opField (w : Word) : BitVec 4 := w.extractLsb' 0 4

/-- RANGE, bits 5:4 (R70). -/
def rangeField (w : Word) : BitVec 2 := w.extractLsb' 4 2

/-- RSV, bits 15:6 (R70). -/
def rsvField (w : Word) : BitVec 10 := w.extractLsb' 6 10

/-- ARG, bits 31:16 (R70). -/
def argField (w : Word) : Half := w.extractLsb' 16 16

/-- The range a RANGE field names; 3 is reserved (R70). -/
def rangeOfField (f : BitVec 2) : Option Range :=
  if f = 0#2 then some .low
  else if f = 1#2 then some .mid
  else if f = 2#2 then some .high
  else none

/-- The RANGE field of a range (R15). -/
def fieldOfRange : Range → BitVec 2
  | .low => 0#2
  | .mid => 1#2
  | .high => 2#2

/-- A command with neither RANGE nor ARG: both fields must be 0 (R73). -/
def decodePlain (w : Word) (i : Instr) : Except DecodeError Instr :=
  if rangeField w ≠ 0#2 then .error .rangeNotUsed
  else if argField w ≠ 0#16 then .error .argNotUsed
  else .ok i

/-- BUILD: a range, and ARG must be 0 (R73). -/
def decodeBuild (w : Word) : Except DecodeError Instr :=
  match rangeOfField (rangeField w) with
  | none => .error .rangeReserved
  | some r => if argField w ≠ 0#16 then .error .argNotUsed else .ok (.build r)

/-- RESOLVE: a range and a 16-bit frequency (R72, R73). -/
def decodeResolve (w : Word) : Except DecodeError Instr :=
  match rangeOfField (rangeField w) with
  | none => .error .rangeReserved
  | some r => .ok (.resolve r (argField w))

/-- QFREQ: a range and an 8-bit index in ARG[7:0]; ARG[15:8] must be 0 (R72, R73). -/
def decodeQfreq (w : Word) : Except DecodeError Instr :=
  match rangeOfField (rangeField w) with
  | none => .error .rangeReserved
  | some r =>
    if (argField w).extractLsb' 8 8 ≠ 0#8 then .error .indexTooWide
    else .ok (.qfreq r ((argField w).extractLsb' 0 8))

/-- The decode function of R73. -/
def decode (w : Word) : Except DecodeError Instr :=
  if 9#4 ≤ opField w then .error .reservedOpcode
  else if rsvField w ≠ 0#10 then .error .reservedBits
  else if opField w = 0#4 then decodePlain w .nop
  else if opField w = 1#4 then decodePlain w .genThr
  else if opField w = 2#4 then decodeBuild w
  else if opField w = 3#4 then decodePlain w .commit
  else if opField w = 4#4 then decodePlain w .run
  else if opField w = 5#4 then decodeResolve w
  else if opField w = 6#4 then decodeQfreq w
  else if opField w = 7#4 then decodePlain w .clrerr
  else decodePlain w .sreset

/-- A command word from its fields, RSV = 0 (R70). -/
def packWord (op : BitVec 4) (range : BitVec 2) (arg : Half) : Word :=
  op.setWidth 32 ||| (range.setWidth 32 <<< 4) ||| (arg.setWidth 32 <<< 16)

/-- The word of a command (R71 and the derived list after R74). -/
def encode : Instr → Word
  | .nop => packWord 0#4 0#2 0#16
  | .genThr => packWord 1#4 0#2 0#16
  | .build r => packWord 2#4 (fieldOfRange r) 0#16
  | .commit => packWord 3#4 0#2 0#16
  | .run => packWord 4#4 0#2 0#16
  | .resolve r f => packWord 5#4 (fieldOfRange r) f
  | .qfreq r i => packWord 6#4 (fieldOfRange r) (0#8 ++ i)
  | .clrerr => packWord 7#4 0#2 0#16
  | .sreset => packWord 8#4 0#2 0#16

/-- The instruction the decoder reads from the `nbits` low bits of `w`, the bits above them 0. A command is ONE 32-bit word
(R70), so nothing longer decodes. -/
def decodeTableWord (nbits w : Nat) : Option Instr :=
  if 32 < nbits then none
  else
    match decode (BitVec.ofNat 32 (w % 2 ^ nbits)) with
    | .ok i => some i
    | .error _ => none

end Sys2Proof
end

