-- ==== Sys2Proof/Machine/State.lean ====
section
/-! DEFINITION. The state of the block (spec 10_state.md R39, the complete list), the inputs waiting to be taken, and the
state after reset (70_reset_and_hazards.md R190). -/

namespace Sys2Proof.Machine

/-- The block never stops: every bus transaction, completion and reset has a defined outcome, and the block takes no traps
(60_exceptions.md R174). So nobody raises a fault, and this type has no value. That no step faults is safe: it is what the
spec says. -/
inductive Fault where
deriving DecidableEq, Repr

/-- Why a step has no meaning. -/
inductive Refusal where
  /-- Raised by `exec` for an instruction whose meaning is not written. No arm of `exec` raises it: all nine commands have
  their meaning. Safe. -/
  | notModelled (mnemonic : String)
deriving DecidableEq, Repr

/-- The error codes of R170. The codes 11 to 15 are reserved and never produced, so they have no constructor. -/
inductive ErrCode where
  /-- 0 NONE. -/
  | noError
  /-- 1 CFG_RANGE. -/
  | cfgRange
  /-- 2 CFG_MIN_ZERO. -/
  | cfgMinZero
  /-- 3 CFG_MIN_GE_MAX. -/
  | cfgMinGeMax
  /-- 4 CFG_NUM_BARS. -/
  | cfgNumBars
  /-- 5 CFG_SCHEME. -/
  | cfgScheme
  /-- 6 SEQ_NO_THR. -/
  | seqNoThr
  /-- 7 SEQ_INCOMPLETE. -/
  | seqIncomplete
  /-- 8 CMD_ILLEGAL. -/
  | cmdIllegal
  /-- 9 CMD_BUSY. -/
  | cmdBusy
  /-- 10 BUS_ACCESS. -/
  | busAccess
deriving DecidableEq, Repr

/-- The six long commands (R71), the values of the `op` of `INFLIGHT`. -/
inductive LongOp where
  | genThr
  | build
  | commit
  | run
  | resolve
  | qfreq
deriving DecidableEq, Repr

/-- The record `{op, range, arg, min, max, n, scheme}` of R37: an accepted long command and the snapshot taken at its
acceptance (R38). -/
structure InFlight where
  op : LongOp
  /-- The RANGE field; `low` (0) for a command without a range, whose RANGE field is 0 (R73). -/
  range : Range
  /-- The ARG field: RESOLVE's frequency, QFREQ's index, 0 for the others (R73). -/
  arg : Half
  /-- The snapshot of `MIN_FREQ`. -/
  min : Word
  /-- The snapshot of `MAX_FREQ`. -/
  max : Word
  /-- The snapshot of `NUM_BARS`. -/
  n : Word
  /-- The snapshot of `SCHEME`, any 32-bit value: GEN_THR and COMMIT are accepted with a reserved one. -/
  scheme : Word
deriving DecidableEq, Repr

/-- A working table of one range: `W[r]`, `W_VALID[r]`, `W_SCHEME[r]` (R32). -/
structure WorkTable where
  data : List Byte
  valid : Bool
  scheme : Scheme
deriving DecidableEq, Repr

/-- Byte memory on the bus, as cells of (bus address, byte), in one canonical form: addresses strictly rising, no cell
that holds what an unlisted address reads as (Machine/Ops.lean). -/
abbrev Memory := List Host.Cell

/-- The width of a bus transaction, 1, 2 or 4 bytes (R51). -/
inductive Width where
  | w1
  | w2
  | w4
deriving DecidableEq, Repr

/-- A host transaction (R51). A write narrower than 4 bytes uses the low bytes of `value`. -/
inductive Transaction where
  | read (addr : BitVec 16) (width : Width)
  | write (addr : BitVec 16) (width : Width) (value : Word)
deriving DecidableEq, Repr

/-- One event of the total order of R62. -/
inductive Event where
  /-- A transaction the host issues. -/
  | bus (t : Transaction)
  /-- The engine's turn: the completion of the long command in flight, if there is one (R151). -/
  | engine
  /-- The assertion of the external reset input (R190). -/
  | reset
deriving DecidableEq, Repr

/-- The bus response to a host transaction (R51): `OKAY` or `ERROR`, with data exactly for a read. -/
inductive Response where
  | okay (data : Option Word)
  | error (data : Option Word)
deriving DecidableEq, Repr

/-- The state. The fields down to `inflight` are the complete state of the block (R39); `pending` and `response` are the
model's own (notes/assumptions/1.md, 2.md). -/
structure State where
  /-- `MIN_FREQ` (R22). -/
  minFreq : Word
  /-- `MAX_FREQ` (R23). -/
  maxFreq : Word
  /-- `NUM_BARS` (R24). -/
  numBars : Word
  /-- `SCHEME` (R25). -/
  scheme : Word
  /-- `RESULT` (R29). -/
  result : Word
  /-- `THR_N` (R30). -/
  thrN : Word
  /-- `THR_VALID` (R28). -/
  thrValid : Bool
  /-- `THR[0..=256]` (R31). -/
  thr : List Half
  /-- `W[0]` with its valid and scheme bits (R32). -/
  low : WorkTable
  /-- `W[1]` with its valid and scheme bits (R32). -/
  mid : WorkTable
  /-- `W[2]` with its valid and scheme bits (R32). -/
  high : WorkTable
  /-- `OUT[0..768]` (R35), byte `k` at bus address `0x2000 + k`. -/
  out : Memory
  /-- `OUT_VALID` (R35). -/
  outValid : Bool
  /-- `OUT_SCHEME` (R35). -/
  outScheme : Scheme
  /-- `UNREACH` (R33). -/
  unreach : Bool
  /-- `CLAMP_HIT` (R34). -/
  clampHit : Bool
  /-- `ERR` (R28, R170). -/
  err : ErrCode
  /-- `INFLIGHT` (R37). -/
  inflight : Option InFlight
  /-- The events that are still to come, the next one first: the inputs of the block. -/
  pending : List Event
  /-- What the bus answered to the last host transaction. -/
  response : Option Response
deriving DecidableEq, Repr

/-- A working table after reset: every entry 0, not valid, scheme bit 0 (R32). -/
def WorkTable.reset : WorkTable where
  data := List.replicate Config.bandEntries 0#8
  valid := false
  scheme := .variantA

/-- The block right after reset: every item 0 and `INFLIGHT` none (R39, R190), no input waiting, no transaction answered yet. -/
def State.reset : State where
  minFreq := 0#32
  maxFreq := 0#32
  numBars := 0#32
  scheme := 0#32
  result := 0#32
  thrN := 0#32
  thrValid := false
  thr := List.replicate Config.thrEntries 0#16
  low := WorkTable.reset
  mid := WorkTable.reset
  high := WorkTable.reset
  out := []
  outValid := false
  outScheme := .variantA
  unreach := false
  clampHit := false
  err := .noError
  inflight := none
  pending := []
  response := none

end Sys2Proof.Machine
end

