-- ==== Sys2Proof/Machine/Ops.lean ====
section
/-! DEFINITION. The operations every meaning shares: the byte memory, the tables, recording an error (the block's only
"exception", spec 60_exceptions.md R172), the snapshot and acceptance of a long command (10_state.md R38, 42_serialize_control.md R150),
its end, and the reset event (70_reset_and_hazards.md R190). -/

namespace Sys2Proof.Machine

/-! ### Byte memory -/

/-- What an address that no cell lists reads as: 0, the reset value of every byte of OUT (R35). -/
def Memory.unlisted : Byte := 0#8

/-- The byte at address `a`. -/
def Memory.read : Memory → Nat → Byte
  | [], _ => Memory.unlisted
  | c :: m, a => if c.1 = a then c.2 else Memory.read m a

/-- The memory that holds the bytes `bs` from address `a` on, and nothing else. -/
def Memory.ofBytes : Nat → List Byte → Memory
  | _, [] => []
  | a, b :: bs =>
    if b = Memory.unlisted then Memory.ofBytes (a + 1) bs else (a, b) :: Memory.ofBytes (a + 1) bs

/-- The canonical form: addresses strictly rising, no cell that an unlisted address would read as. -/
abbrev Memory.wf (m : Memory) : Prop :=
  m.Pairwise (fun c d => c.1 < d.1) ∧ ∀ c ∈ m, c.2 ≠ Memory.unlisted

/-- The bus address of `OUT[0]` (R52). -/
def outBase : Nat := 0x2000

/-! ### Tables -/

/-- `OUT[k]` (R35). -/
def State.outAt (s : State) (k : Nat) : Byte := s.out.read (outBase + k)

/-- `THR[i]` (R31). -/
def State.thrAt (s : State) (i : Nat) : Half := s.thr.getD i 0#16

/-- `W[r][k]` (R32). -/
def WorkTable.at (t : WorkTable) (k : Nat) : Byte := t.data.getD k 0#8

/-- The working table of range `r`. -/
def State.work (s : State) : Range → WorkTable
  | .low => s.low
  | .mid => s.mid
  | .high => s.high

/-- The state with the working table of range `r` replaced. -/
def State.setWork (s : State) (r : Range) (t : WorkTable) : State :=
  { s with
    low := if r = .low then t else s.low
    mid := if r = .mid then t else s.mid
    high := if r = .high then t else s.high }

/-- A working table marked as not built from the current thresholds (R108); its data and scheme bit stay. -/
def WorkTable.invalidate (t : WorkTable) : WorkTable := { t with valid := false }

/-! ### Recording an error -/

/-- `raise Error(code)` (R172): the first error since the last clear is kept, and nothing else changes. -/
def State.raise (s : State) (c : ErrCode) : State :=
  { s with err := if s.err = .noError then c else s.err }

/-- `CLRERR`'s effect (R157): the three sticky fields are cleared. -/
def State.clearSticky (s : State) : State :=
  { s with err := .noError, unreach := false, clampHit := false }

/-! ### Long commands: acceptance and end -/

/-- The snapshot of R38: the four configuration registers and the command's RANGE and ARG fields. -/
def State.snapshot (s : State) (op : LongOp) (range : Range) (arg : Half) : InFlight where
  op := op
  range := range
  arg := arg
  min := s.minFreq
  max := s.maxFreq
  n := s.numBars
  scheme := s.scheme

/-- The code of the first check of the list that fails. A check is a code and whether its error condition holds. -/
def firstFailing : List (ErrCode × Bool) → Option ErrCode
  | [] => none
  | (c, bad) :: rest => if bad then some c else firstFailing rest

/-- The acceptance of a long command with snapshot `rec` and the checks it makes of its own (R150): CMD_BUSY is checked first
(R171); on the first failing check its code is recorded and nothing else happens; otherwise the command is in flight. -/
def State.acceptLong (s : State) (rec : InFlight) (checks : List (ErrCode × Bool)) : State :=
  match firstFailing ((.cmdBusy, s.inflight.isSome) :: checks) with
  | some c => s.raise c
  | none => { s with inflight := some rec }

/-- The last action of every completion (R151): `INFLIGHT <- none`. -/
def State.finish (s : State) : State := { s with inflight := none }

/-! ### Reset, inputs and responses -/

/-- The reset event (R190): every piece of the block's state takes its reset value. What the outside still has to send and what
the bus answered last are no state of the block and stay. -/
def State.resetEvent (s : State) : State :=
  { State.reset with pending := s.pending, response := s.response }

/-- The bus answers `r`. -/
def State.respond (s : State) (r : Response) : State := { s with response := some r }

/-- `f` applied to the state of a next-outcome. -/
def mapNext (f : State → State) (o : Host.Outcome State Fault Refusal) : Host.Outcome State Fault Refusal :=
  match o with
  | .next s => .next (f s)
  | .fault r => .fault r
  | .refused r => .refused r

end Sys2Proof.Machine
end

