-- ==== Sys2Proof/Machine/Operands.lean ====
section
/-! DEFINITION. The operands of the commands: the scheme selector and the scheme presets (spec 30_encoding.md R80 to R82), the
representative frequency of a table index (41_bandtable.md R121), and the acceptance checks on a snapshot (60_exceptions.md R170, R171). -/

namespace Sys2Proof.Machine

/-- The five parameters of one range of a scheme (R81). -/
structure Preset where
  base : Nat
  shift : Nat
  offset : Nat
  count : Nat
  clamp : Bool
deriving DecidableEq, Repr

/-- The preset table of R81. The low and the high row are the same in both schemes (90_conflicts.md C9). Only the high range
clamps (C2). -/
def preset : Scheme → Range → Preset
  | .variantA, .low => ⟨0x0000, 4, 8, 256, false⟩
  | .variantA, .mid => ⟨0x1000, 5, 16, 256, false⟩
  | .variantA, .high => ⟨0x0000, 8, 128, 256, true⟩
  | .variantB, .low => ⟨0x0000, 4, 8, 256, false⟩
  | .variantB, .mid => ⟨0x1000, 6, 32, 192, false⟩
  | .variantB, .high => ⟨0x0000, 8, 128, 256, true⟩

/-- The scheme a value of the SCHEME register selects (R80). Values above 1 are reserved and rejected at acceptance with
CFG_SCHEME, so no completion reads one (notes/assumptions/6.md). -/
def schemeOfWord (w : Word) : Scheme :=
  if w = 0#32 then .variantA else .variantB

/-- The representative frequency of index `idx` (R121), exact and unsigned; `none` is MASKED. -/
def freqOf (s : Scheme) (r : Range) (idx : Nat) : Option Nat :=
  if (preset s r).count ≤ idx then none
  else some ((preset s r).base + idx * 2 ^ (preset s r).shift + (preset s r).offset)

/-- The checks of a threshold configuration (R101) in the order of R171. -/
def thresholdChecks (c : InFlight) : List (ErrCode × Bool) :=
  [ (.cfgRange, decide (0xFFFF#32 < c.min ∨ 0xFFFF#32 < c.max)),
    (.cfgMinZero, decide (c.min = 0#32)),
    (.cfgMinGeMax, decide (c.max ≤ c.min)),
    (.cfgNumBars, decide (c.n = 0#32 ∨ 256#32 < c.n)) ]

/-- The check of the scheme selector (R80): values above 1 are reserved. -/
def schemeChecks (c : InFlight) : List (ErrCode × Bool) :=
  [(.cfgScheme, decide (1#32 < c.scheme))]

/-- BUILD and RESOLVE need thresholds (R129, R131). -/
def thresholdsPresentChecks (s : State) : List (ErrCode × Bool) :=
  [(.seqNoThr, !s.thrValid)]

/-- COMMIT needs the three working tables, built with one scheme (R153). -/
def tablesCompleteChecks (s : State) : List (ErrCode × Bool) :=
  [ (.seqIncomplete, !(s.low.valid && s.mid.valid && s.high.valid)),
    (.seqIncomplete, !(decide (s.low.scheme = s.mid.scheme) && decide (s.mid.scheme = s.high.scheme))) ]

end Sys2Proof.Machine
end

