-- ==== Sys2Proof/Machine/Flags.lean ====
section
/-! DEFINITION. The flags: how a bar resolution ends and what it sets (spec 41_bandtable.md R125), the encoding of ERR
(60_exceptions.md R170), the STATUS word (10_state.md R28) and the RESULT formats (30_encoding.md R84). -/

namespace Sys2Proof.Machine

/-- How a bar resolution ended (R122). -/
inductive Kind where
  | scan
  | clamp
  | fallback
deriving DecidableEq, Repr

/-- R125 for the resolutions of one completion: a FALLBACK among them sets UNREACH, a CLAMP sets CLAMP_HIT, a SCAN changes
neither, and no flag is ever cleared. -/
def State.noteKinds (s : State) (ks : List Kind) : State :=
  { s with
    unreach := s.unreach || decide (Kind.fallback ∈ ks)
    clampHit := s.clampHit || decide (Kind.clamp ∈ ks) }

/-- The 4-bit code of R170. -/
def ErrCode.code : ErrCode → BitVec 4
  | .noError => 0#4
  | .cfgRange => 1#4
  | .cfgMinZero => 2#4
  | .cfgMinGeMax => 3#4
  | .cfgNumBars => 4#4
  | .cfgScheme => 5#4
  | .seqNoThr => 6#4
  | .seqIncomplete => 7#4
  | .cmdIllegal => 8#4
  | .cmdBusy => 9#4
  | .busAccess => 10#4

/-- The scheme bit: 0 = A, 1 = B (R28). -/
def schemeBit : Scheme → Bool
  | .variantA => false
  | .variantB => true

/-- A one-bit field at bit `i` of a register. -/
def bitAt (b : Bool) (i : Nat) : Word := (BitVec.ofBool b).setWidth 32 <<< i

/-- The STATUS word, field by field (R28); bits 31:13 are 0. OUT_SCHEME reads 0 while OUT_VALID is 0. -/
def State.status (s : State) : Word :=
  bitAt s.inflight.isSome 0
    ||| bitAt s.thrValid 1
    ||| bitAt s.low.valid 2
    ||| bitAt s.mid.valid 3
    ||| bitAt s.high.valid 4
    ||| bitAt s.outValid 5
    ||| bitAt s.unreach 6
    ||| bitAt s.clampHit 7
    ||| (s.err.code.setWidth 32 <<< 8)
    ||| bitAt (s.outValid && schemeBit s.outScheme) 12

/-- RESULT as RESOLVE writes it (R84, R131): BAR in 7:0 (a bar index is below 256), CLAMPED in 8, FALLBACK in 9, the rest 0. -/
def resolveResult (bar : Nat) (k : Kind) : Word :=
  BitVec.ofNat 32 bar ||| bitAt (decide (k = .clamp)) 8 ||| bitAt (decide (k = .fallback)) 9

/-- RESULT as QFREQ writes it (R84, R133): FREQ in 15:0, or INVALID (bit 16) with FREQ 0. -/
def qfreqResult : Option Nat → Word
  | some f => BitVec.ofNat 32 f
  | none => 0x00010000#32

end Sys2Proof.Machine
end

