-- ==== Sys2Proof/Machine/Bus.lean ====
section
/-! DEFINITION. The bus (spec 20_memory.md): the address map (R52), legal transactions (R57), byte order (R56), reads, and writes to every
register but CMD. -/

namespace Sys2Proof.Machine

/-! ### Addresses (R52) -/

def addrCmd : Nat := 0x0000
def addrStatus : Nat := 0x0004
def addrMinFreq : Nat := 0x0008
def addrMaxFreq : Nat := 0x000C
def addrNumBars : Nat := 0x0010
def addrScheme : Nat := 0x0014
def addrResult : Nat := 0x0018
def addrThrN : Nat := 0x001C
/-- `THR[0]`. -/
def thrBase : Nat := 0x1000
/-- The first address after `THR[256]`. -/
def thrEnd : Nat := 0x1404
/-- The first address at which widths 1 and 2 are legal. -/
def narrowBase : Nat := 0x2000
/-- The first address after `OUT[767]`. -/
def outEnd : Nat := 0x2300

/-! ### Legal transactions (R57) -/

/-- The number of bytes of a width. -/
def Width.bytes : Width → Nat
  | .w1 => 1
  | .w2 => 2
  | .w4 => 4

def Transaction.addr : Transaction → Nat
  | .read a _ => a.toNat
  | .write a _ _ => a.toNat

def Transaction.width : Transaction → Width
  | .read _ w => w
  | .write _ w _ => w

/-- A transaction is legal when its address is a multiple of its width and, below 0x2000, its width is 4 (R57). -/
def Transaction.legal (t : Transaction) : Bool :=
  decide (t.addr % t.width.bytes = 0) && (decide (narrowBase ≤ t.addr) || decide (t.width = .w4))

/-! ### Reads -/

/-- The 32-bit value at a 4-byte-aligned address below 0x2000 (R53, R54): a register, an entry of the THR window, or 0 for CMD and for
reserved addresses (R58). -/
def State.wordAt (s : State) (a : Nat) : Word :=
  if a = addrStatus then s.status
  else if a = addrMinFreq then s.minFreq
  else if a = addrMaxFreq then s.maxFreq
  else if a = addrNumBars then s.numBars
  else if a = addrScheme then s.scheme
  else if a = addrResult then s.result
  else if a = addrThrN then s.thrN
  else if thrBase ≤ a ∧ a < thrEnd then (s.thrAt ((a - thrBase) / 4)).setWidth 32
  else 0#32

/-- `byte(x)` of R56: the byte the address space holds at `a`. -/
def State.byteAt (s : State) (a : Nat) : Byte :=
  if a < narrowBase then (s.wordAt (a - a % 4)).extractLsb' (8 * (a % 4)) 8
  else if a < outEnd then s.out.read a
  else 0#8

/-- The sum of R56: `n` bytes from address `a` on, the lowest address in the least significant place. -/
def readLE (byte : Nat → Byte) : Nat → Nat → Nat
  | _, 0 => 0
  | a, n + 1 => (byte a).toNat + 2 ^ 8 * readLE byte (a + 1) n

/-- The data of a legal read (R56). -/
def State.readData (s : State) (t : Transaction) : Word :=
  BitVec.ofNat 32 (readLE s.byteAt t.addr t.width.bytes)

/-! ### Writes -/

/-- A legal write to an address other than CMD (R53): stored in a read/write register, ignored elsewhere (R58, R59). -/
def State.writeRegister (s : State) (a : Nat) (v : Word) : State :=
  if a = addrMinFreq then { s with minFreq := v }
  else if a = addrMaxFreq then { s with maxFreq := v }
  else if a = addrNumBars then { s with numBars := v }
  else if a = addrScheme then { s with scheme := v }
  else s

/-- The response to an illegal transaction (R57): ERROR, and data 0 for a read. -/
def Transaction.errorResponse : Transaction → Response
  | .read _ _ => .error (some 0#32)
  | .write _ _ _ => .error none

end Sys2Proof.Machine
end

