-- ==== Sys2Proof/Machine/BandTable.lean ====
section
/-! DEFINITION. BandTableBuilder (spec 41_bandtable.md): bar resolution, building a range's working table, and BUILD, RESOLVE and
QFREQ. -/

namespace Sys2Proof.Machine

/-- The scan of R122 over a list of boundaries: the number (counting from `b`) of the first half-open interval between neighbours that
holds `f`. -/
def scan (f : Nat) : Nat → List Half → Option Nat
  | b, lo :: hi :: rest =>
    if lo.toNat ≤ f ∧ f < hi.toNat then some b else scan f (b + 1) (hi :: rest)
  | _, _ => none

/-- `resolve(n, f, clamp)` of R122 over the table `THR`: the bar and how it was found. -/
def resolve (table : List Half) (n f : Nat) (clamp : Bool) : Nat × Kind :=
  match scan f 0 (table.take (n + 1)) with
  | some b => (b, .scan)
  | none =>
    if clamp = true ∧ (table.getD n 0#16).toNat ≤ f then (n - 1, .clamp)
    else (0, .fallback)

/-- What BuildTable finds for index `idx` (R127): `none` for a masked index (R126), else the resolution of its frequency. -/
def State.bandEntry (s : State) (sch : Scheme) (r : Range) (idx : Nat) : Option (Nat × Kind) :=
  match freqOf sch r idx with
  | none => none
  | some f => some (resolve s.thr s.thrN.toNat f (preset sch r).clamp)

/-- The 256 findings of one range, in index order. -/
def State.bandEntries (s : State) (sch : Scheme) (r : Range) : List (Option (Nat × Kind)) :=
  (List.range Config.bandEntries).map (s.bandEntry sch r)

/-- The byte of one finding: a masked entry is 0 (R126), else the bar (R127). -/
def entryByte : Option (Nat × Kind) → Byte
  | none => 0#8
  | some (b, _) => BitVec.ofNat 8 b

/-- The kinds of the resolutions that were made; a masked entry makes none (R126). -/
def entryKinds (es : List (Option (Nat × Kind))) : List Kind :=
  es.filterMap (Option.map Prod.snd)

/-- `BuildTable(sch, r)` (R127). -/
def State.buildTable (s : State) (sch : Scheme) (r : Range) : State :=
  (s.setWork r ⟨(s.bandEntries sch r).map entryByte, true, sch⟩).noteKinds (entryKinds (s.bandEntries sch r))

/-- BUILD at its CMD write (R129): checked and put in flight. -/
def execBuild (r : Range) (s : State) : Host.Outcome State Fault Refusal :=
  .next (s.acceptLong (s.snapshot .build r 0#16) (schemeChecks (s.snapshot .build r 0#16) ++ thresholdsPresentChecks s))

/-- BUILD's completion (R129). -/
def completeBuild (c : InFlight) (s : State) : State :=
  (s.buildTable (schemeOfWord c.scheme) c.range).finish

/-- RESOLVE at its CMD write (R131): checked and put in flight. -/
def execResolve (r : Range) (freq : Half) (s : State) : Host.Outcome State Fault Refusal :=
  .next (s.acceptLong (s.snapshot .resolve r freq) (schemeChecks (s.snapshot .resolve r freq) ++ thresholdsPresentChecks s))

/-- The resolution a RESOLVE in flight makes (R131). -/
def State.resolveInFlight (s : State) (c : InFlight) : Nat × Kind :=
  resolve s.thr s.thrN.toNat c.arg.toNat (preset (schemeOfWord c.scheme) c.range).clamp

/-- RESOLVE's completion (R131): RESULT and the flag of the resolution. -/
def completeResolve (c : InFlight) (s : State) : State :=
  ({ s with result := resolveResult (s.resolveInFlight c).1 (s.resolveInFlight c).2 }.noteKinds
    [(s.resolveInFlight c).2]).finish

/-- QFREQ at its CMD write (R133): checked and put in flight. The index is the low byte of ARG. -/
def execQfreq (r : Range) (idx : Byte) (s : State) : Host.Outcome State Fault Refusal :=
  .next (s.acceptLong (s.snapshot .qfreq r (idx.setWidth 16)) (schemeChecks (s.snapshot .qfreq r (idx.setWidth 16))))

/-- QFREQ's completion (R133): nothing but RESULT changes. -/
def completeQfreq (c : InFlight) (s : State) : State :=
  { s with result := qfreqResult (freqOf (schemeOfWord c.scheme) c.range c.arg.toNat) }.finish

end Sys2Proof.Machine
end

