-- ==== Sys2Proof/Machine/Binary64.lean ====
section
/-! DEFINITION. The binary64 arithmetic of spec 40_threshold.md R104, on non-negative values: `round64` of a quotient, and the correctly
rounded power `pow64`.

A value is a natural number of units of `2^-1074`, the smallest positive binary64 number: every non-negative finite binary64 number is a
whole number of units. Rounding is to 53 significant bits, ties to even. No value of R104 comes near the overflow threshold, so none is
given here (for a legal configuration every intermediate value is below `2^17`). -/

namespace Sys2Proof.Machine

/-- 1.0 in units of `2^-1074`. -/
def unit64 : Nat := 2 ^ 1074

/-- `round64`: the binary64 value nearest `num / den` units, ties to even. With `⌊num / den⌋` of at most 53 bits the spacing is one
unit (the subnormal range and the first normal binade); with `k` bits more it is `2^k` units. -/
def round64 (num den : Nat) : Nat :=
  let spacing := 2 ^ ((num / den).log2 - 52)
  let s := num / (den * spacing)
  let r := num % (den * spacing)
  if 2 * r < den * spacing then s * spacing
  else if den * spacing < 2 * r then (s + 1) * spacing
  else if s % 2 = 0 then s * spacing
  else (s + 1) * spacing

/-! ### The power, exactly

`q` and `e` units stand for the values `q / U` and `e / U`, `U = unit64`. The power `v = U·(q/U)^(e/U)`, in units, is the number with
`v^U · U^e = U^U · q^e`. -/

/-- The exact fallback of `pow64` (its numbers are far too large to compute; they say what is meant): with `f = ⌊2v⌋`, rounding `v` is rounding `f/2` where `v` is `f/2`, and rounding `f/2 + 1/4` where `v`
lies strictly between `f/2` and `(f+1)/2`: no rounding boundary lies strictly inside that interval. For `e ≤ U` it is below `max q U`,
hence the search bound. -/
@[noinline] def powExact (u q e : Nat) : Nat :=
  let f := Nat.findGreatest (fun f => f ^ u * u ^ e ≤ 2 ^ u * u ^ u * q ^ e) (2 * (q + u))
  if f ^ u * u ^ e = 2 ^ u * u ^ u * q ^ e then round64 f 2 else round64 (2 * f + 1) 4

/-! ### The power, by enclosure

Numbers here are fixed-point with `p` fraction bits. `powLoop` reads the binary expansion of the exponent; beside the running base
`b = q^(2^-j)` it keeps the product of the factors met so far, each as a lower and an upper bound. Every bound is CHECKED (a square against its
radicand) or rounded outward, so the enclosure never rests on how the square root was found. -/

/-- Newton's iteration for `⌊√n⌋` from a guess `g` at least that large. -/
def newtonSqrt : Nat → Nat → Nat → Nat
  | 0, _, g => g
  | fuel + 1, n, g =>
    let g' := (g + n / g) / 2
    if g' < g then newtonSqrt fuel n g' else g

/-- The least of `g, g + 1, …` (at most `fuel` of them) whose square is at least `n`. -/
def climbSqrt : Nat → Nat → Nat → Option Nat
  | 0, _, _ => none
  | fuel + 1, n, g => if n ≤ g * g then some g else climbSqrt fuel n (g + 1)

/-- Bounds of the square root of a number enclosed by `lo` and `hi`, with `p` fraction bits. -/
def sqrtBounds (p lo hi : Nat) : Option (Nat × Nat) :=
  let g := newtonSqrt 64 (lo * 2 ^ p) ((lo + 2 ^ p) / 2 + 1)
  if g * g ≤ lo * 2 ^ p then
    match climbSqrt 8 (hi * 2 ^ p) g with
    | some h => some (g, h)
    | none => none
  else none

/-- The quotient rounded up. -/
def ceilDiv (n d : Nat) : Nat := (n + d - 1) / d

/-- Bounds of `a · b^(e/U)`, given bounds of `a` and of `b` and an exponent of `e < U` units, reading one bit of the exponent at each
turn: `b^(e/U) = (√b)^(2e/U)`. `none` where the fuel ends before the exponent's bits do, or a bound fails its check. -/
def powLoop (p : Nat) : Nat → (aLo aHi bLo bHi e : Nat) → Option (Nat × Nat)
  | 0, aLo, aHi, _, _, e => if e = 0 then some (aLo, aHi) else none
  | fuel + 1, aLo, aHi, bLo, bHi, e =>
    if e = 0 then some (aLo, aHi)
    else
      match sqrtBounds p bLo bHi with
      | none => none
      | some (lo, hi) =>
        if 2 * e < unit64 then powLoop p fuel aLo aHi lo hi (2 * e)
        else powLoop p fuel (aLo * lo / 2 ^ p) (ceilDiv (aHi * hi) (2 ^ p)) lo hi (2 * e - unit64)

/-- The power with `p ≤ 1074` fraction bits: the rounded value, where the lower and the upper bound round to the same value (rounding
is monotone, so every number between them rounds to it too). -/
def powEnclosed (p q e : Nat) : Option Nat :=
  match powLoop p 64 (2 ^ p) (2 ^ p) (q / 2 ^ (1074 - p)) (ceilDiv q (2 ^ (1074 - p))) e with
  | none => none
  | some (lo, hi) =>
    if round64 (lo * 2 ^ (1074 - p)) 1 = round64 (hi * 2 ^ (1074 - p)) 1 then
      some (round64 (lo * 2 ^ (1074 - p)) 1)
    else none

/-- The precisions tried before the exact fallback. -/
def powPrecisions : List Nat := [128, 512]

/-- The first precision whose enclosure rounds to one value. -/
def powFirst : List Nat → Nat → Nat → Option Nat
  | [], _, _ => none
  | p :: ps, q, e =>
    match powEnclosed p q e with
    | some y => some y
    | none => powFirst ps q e

/-- `pow64(q, e)` (R104): the binary64 value nearest `q^e`, ties to even, for `0 < e ≤ 1`. `q^1` is `q`. Otherwise the enclosures give the
value, and where none of them does, the exact fallback does. -/
def pow64 (q e : Nat) : Nat :=
  if e = unit64 then q
  else
    match powFirst powPrecisions q e with
    | some y => y
    | none => powExact unit64 q e

/-! ### The threshold formula -/

/-- The steps of `thr(min, max, n, i)` (R104) down to its floor `t`, before the truncation, for `1 ≤ i ≤ n` and a legal
configuration (R101). -/
def thrFloor (min max n i : Nat) : Nat :=
  let q := round64 (max * unit64) min
  let e := round64 (i * unit64) n
  let p := pow64 q e
  let x := round64 (min * p) 1
  let y := round64 (x + unit64 / 2) 1
  y / unit64

/-- `thr(min, max, n, i)` (R104): the floor, truncated to the target integer width of 16 bits (R103). -/
def thr (min max n i : Nat) : Nat := thrFloor min max n i % 2 ^ 16

end Sys2Proof.Machine
end

