-- ==== Sys2Proof/Machine/Threshold.lean ====
section
/-! DEFINITION. ThresholdGenerator (spec 40_threshold.md): writing the threshold table, and GEN_THR. -/

namespace Sys2Proof.Machine

/-- Entry `i` of the table that `WriteThresholds(min, max, n)` writes (R102, R103, R108): 0 at `i = 0`, the threshold up to `n`, 0 above. -/
def thrEntry (min max n i : Nat) : Half :=
  if i = 0 then 0#16
  else if i ≤ n then BitVec.ofNat 16 (thr min max n i)
  else 0#16

/-- `WriteThresholds(min, max, n)` (R108). The working tables become invalid; their data and scheme bits stay. -/
def State.writeThresholds (s : State) (min max n : Word) : State :=
  { s with
    thr := (List.range Config.thrEntries).map (thrEntry min.toNat max.toNat n.toNat)
    thrN := n
    thrValid := true
    low := s.low.invalidate
    mid := s.mid.invalidate
    high := s.high.invalidate }

/-- GEN_THR at its CMD write (R109): checked and put in flight. -/
def execGenThr (s : State) : Host.Outcome State Fault Refusal :=
  .next (s.acceptLong (s.snapshot .genThr .low 0#16) (thresholdChecks (s.snapshot .genThr .low 0#16)))

/-- GEN_THR's completion (R109). -/
def completeGenThr (c : InFlight) (s : State) : State :=
  (s.writeThresholds c.min c.max c.n).finish

end Sys2Proof.Machine
end

