-- ==== Sys2Proof/Machine/Control.lean ====
section
/-! DEFINITION. TableSerializer and control (spec 42_serialize_control.md): COMMIT, RUN, NOP, CLRERR, SRESET. -/

namespace Sys2Proof.Machine

/-- `Serialize(sch)` (R153): all 768 bytes of OUT become low ++ mid ++ high (R85) at once. -/
def State.serialize (s : State) (sch : Scheme) : State :=
  { s with
    out := Memory.ofBytes outBase (s.low.data ++ s.mid.data ++ s.high.data)
    outValid := true
    outScheme := sch }

/-- COMMIT at its CMD write (R153): checked and put in flight. -/
def execCommit (s : State) : Host.Outcome State Fault Refusal :=
  .next (s.acceptLong (s.snapshot .commit .low 0#16) (tablesCompleteChecks s))

/-- COMMIT's completion (R153). -/
def completeCommit (s : State) : State :=
  (s.serialize s.low.scheme).finish

/-- RUN at its CMD write (R154): checked and put in flight. -/
def execRun (s : State) : Host.Outcome State Fault Refusal :=
  .next (s.acceptLong (s.snapshot .run .low 0#16)
    (thresholdChecks (s.snapshot .run .low 0#16) ++ schemeChecks (s.snapshot .run .low 0#16)))

/-- The three BuildTable of RUN, in the order low, mid, high (R154). -/
def State.buildAll (s : State) (sch : Scheme) : State :=
  ((s.buildTable sch .low).buildTable sch .mid).buildTable sch .high

/-- RUN's completion (R154): thresholds, the three tables, the blob, as one event. -/
def completeRun (c : InFlight) (s : State) : State :=
  (((s.writeThresholds c.min c.max c.n).buildAll (schemeOfWord c.scheme)).serialize (schemeOfWord c.scheme)).finish

/-- NOP (R156): no effect on any state, busy or idle. -/
def execNop (s : State) : Host.Outcome State Fault Refusal :=
  .next s

/-- CLRERR (R157): the sticky fields are cleared at the write, busy or idle; a command in flight goes on. -/
def execClrerr (s : State) : Host.Outcome State Fault Refusal :=
  .next s.clearSticky

/-- SRESET (R158): the reset event when no command is in flight, else CMD_BUSY and nothing more. -/
def execSreset (s : State) : Host.Outcome State Fault Refusal :=
  if s.inflight.isSome then .next (s.raise .cmdBusy) else .next s.resetEvent

end Sys2Proof.Machine
end

