-- ==== Sys2Proof/Machine/Engine.lean ====
section
/-! DEFINITION. The engine's turn (spec 42_serialize_control.md R151): the completion of the long command in flight, one atomic event. -/

namespace Sys2Proof.Machine

/-- The completion of the record `c`. -/
def completeRecord (c : InFlight) (s : State) : State :=
  match c.op with
  | .genThr => completeGenThr c s
  | .build => completeBuild c s
  | .commit => completeCommit s
  | .run => completeRun c s
  | .resolve => completeResolve c s
  | .qfreq => completeQfreq c s

/-- The engine's turn. With nothing in flight no event of the block happens (R201), and nothing changes. -/
def State.engineTurn (s : State) : State :=
  match s.inflight with
  | none => s
  | some c => completeRecord c s

end Sys2Proof.Machine
end

