-- ==== Sys2Proof/Machine/Dispatch.lean ====
section
/-! DEFINITION. `exec`: one arm per command of spec/opcode_table.json. -/

namespace Sys2Proof.Machine

def exec (i : Instr) (s : State) : Host.Outcome State Fault Refusal :=
  match i with
  | .nop => Sys2Proof.Machine.execNop s
  | .genThr => Sys2Proof.Machine.execGenThr s
  | .build range => Sys2Proof.Machine.execBuild range s
  | .commit => Sys2Proof.Machine.execCommit s
  | .run => Sys2Proof.Machine.execRun s
  | .resolve range freq => Sys2Proof.Machine.execResolve range freq s
  | .qfreq range idx => Sys2Proof.Machine.execQfreq range idx s
  | .clrerr => Sys2Proof.Machine.execClrerr s
  | .sreset => Sys2Proof.Machine.execSreset s

end Sys2Proof.Machine
end

