-- ==== Sys2Proof/Machine/Transact.lean ====
section
/-! DEFINITION. One host transaction as one atomic event (spec 20_memory.md R51, R57, R61), a CMD write among them (42_serialize_control.md R150). -/

namespace Sys2Proof.Machine

/-- `onCmdWrite(w)` (R150): an illegal word records CMD_ILLEGAL and does nothing else (R74), a legal one is executed. -/
def State.onCmdWrite (s : State) (w : Word) : Host.Outcome State Fault Refusal :=
  match decode w with
  | .error _ => .next (s.raise .cmdIllegal)
  | .ok i => exec i s

/-- A legal transaction: a read answers its data and changes nothing (R60), a write to CMD issues a command, any other write goes to the
registers. The response is OKAY (R172 for a rejected command, R58, R59 for an ignored write). -/
def State.legalTransact (s : State) (t : Transaction) : Host.Outcome State Fault Refusal :=
  match t with
  | .read _ _ => .next (s.respond (.okay (some (s.readData t))))
  | .write a _ v =>
    if a.toNat = addrCmd then mapNext (fun s' => s'.respond (.okay none)) (s.onCmdWrite v)
    else .next ((s.writeRegister a.toNat v).respond (.okay none))

/-- A host transaction. Legality is checked before anything is decoded (R171); an illegal transaction records BUS_ACCESS, changes nothing
else and is answered ERROR (R57). -/
def State.transact (s : State) (t : Transaction) : Host.Outcome State Fault Refusal :=
  if t.legal then s.legalTransact t
  else .next ((s.raise .busAccess).respond t.errorResponse)

end Sys2Proof.Machine
end

