-- ==== Sys2Proof/Machine/Step.lean ====
section
/-! DEFINITION. One step of the block: the next event of the total order of spec 20_memory.md R62, and how a command word is placed where the
next step takes it. -/

namespace Sys2Proof.Machine

/-- One event. The events come in the order `pending` gives them. With no input waiting, the only event that can happen is the engine's
turn (weak fairness of R151), and with nothing in flight either the block is quiescent and stays as it is (R182, R201). -/
def step (s : State) : Host.Outcome State Fault Refusal :=
  match s.pending with
  | [] => .next s.engineTurn
  | .engine :: rest => .next { s with pending := rest }.engineTurn
  | .reset :: rest => .next { s with pending := rest }.resetEvent
  | .bus t :: rest => { s with pending := rest }.transact t

/-- `s` with a host write of the command word `w` to CMD as its very next event. The block fetches nothing (R21, R65): a command reaches it as a
bus write (notes/assumptions/7.md). -/
def State.withFetchWord (s : State) (nbits w : Nat) : State :=
  { s with pending := .bus (.write 0x0000#16 .w4 (BitVec.ofNat 32 (w % 2 ^ nbits))) :: s.pending }

end Sys2Proof.Machine
end

