-- ==== Sys2Proof/Machine/HostProgram.lean ====
section
/-! DEFINITION. What the outside sends: the host-program notation (spec 30_encoding.md R90, R91) as lists of events, and the order of the events of one
clock cycle (60_exceptions.md R177). -/

namespace Sys2Proof.Machine

/-! ### Host notation (R90) -/

/-- `WR32 addr, value`. -/
def wr32 (addr : BitVec 16) (v : Word) : Event := .bus (.write addr .w4 v)

/-- `RD32 addr`. -/
def rd32 (addr : BitVec 16) : Event := .bus (.read addr .w4)

/-- `RD16 addr`. -/
def rd16 (addr : BitVec 16) : Event := .bus (.read addr .w2)

/-- `RD8 addr`. -/
def rd8 (addr : BitVec 16) : Event := .bus (.read addr .w1)

/-! ### Pseudo-instructions (R91) -/

/-- `CMD …`: the command's word written to CMD. -/
def cmdWrite (i : Instr) : Event := wr32 0x0000#16 (encode i)

/-- `CFG min, max, n, scheme`. -/
def cfgWrites (min max n scheme : Word) : List Event :=
  [wr32 0x0008#16 min, wr32 0x000C#16 max, wr32 0x0010#16 n, wr32 0x0014#16 scheme]

/-- `WAIT`: `polls` reads of STATUS that come before the completion, the completion, and the read that ends the loop. `polls` is any number: LAT
is open (R11). -/
def waitPolls (polls : Nat) : List Event :=
  List.replicate polls (rd32 0x0004#16) ++ [.engine, rd32 0x0004#16]

/-- The state with more inputs to come after those already waiting. -/
def State.present (s : State) (es : List Event) : State := { s with pending := s.pending ++ es }

/-! ### Events of one clock cycle (R177) -/

/-- What falls in one clock cycle (R177). DESIGN CHOICE: at most one host transaction falls in a cycle; the bus protocol is open (R11, R51), so the spec says
no number (notes/assumptions/22.md). `busFirst` is the order of that transaction against a completion, where the spec leaves it open
(notes/assumptions/5.md). -/
structure Cycle where
  /-- The reset input is asserted. -/
  reset : Bool
  /-- The engine's completion falls in this cycle. -/
  completion : Bool
  /-- The host's transaction of this cycle, one at most (notes/assumptions/22.md). -/
  bus : Option Transaction
  busFirst : Bool
deriving DecidableEq, Repr

/-- The transaction is a write to CMD that issues a command. -/
def Transaction.isCmdWrite : Transaction → Bool
  | .read _ _ => false
  | .write a w _ => decide (a.toNat = addrCmd) && decide (w = .w4)

/-- The events of a cycle in their order (R177): the reset input before every other event; a completion before a CMD write. -/
def Cycle.events (c : Cycle) : List Event :=
  (if c.reset then [Event.reset] else []) ++
    match c.completion, c.bus with
    | false, none => []
    | true, none => [.engine]
    | false, some t => [.bus t]
    | true, some t => if c.busFirst && !t.isCmdWrite then [.bus t, .engine] else [.engine, .bus t]

end Sys2Proof.Machine
end

