-- ==== Sys2Proof/Safety.lean ====
section
/-! DEFINITION. The terms the statements use: legal configurations (spec 40_threshold.md R101), the error table (60_exceptions.md R170, R171), the bar
resolution as the spec's own loop (41_bandtable.md R122), correct rounding to binary64 (40_threshold.md R104), and the invariants of a good state. -/

namespace Sys2Proof.Machine

/-! ### Command words -/

/-- The fields (OP, RANGE, ARG) that R73 returns for a command, as numbers (R70, R71). -/
def fieldsOf : Instr → Nat × Nat × Nat
  | .nop => (0, 0, 0)
  | .genThr => (1, 0, 0)
  | .build r => (2, (fieldOfRange r).toNat, 0)
  | .commit => (3, 0, 0)
  | .run => (4, 0, 0)
  | .resolve r f => (5, (fieldOfRange r).toNat, f.toNat)
  | .qfreq r idx => (6, (fieldOfRange r).toNat, idx.toNat)
  | .clrerr => (7, 0, 0)
  | .sreset => (8, 0, 0)

/-! ### Configurations and errors -/

/-- A legal threshold configuration (R101). -/
structure LegalConfig (min max n : Word) : Prop where
  min_fits : min.toNat ≤ 0xFFFF
  max_fits : max.toNat ≤ 0xFFFF
  min_pos : 1 ≤ min.toNat
  min_lt_max : min.toNat < max.toNat
  bars_pos : 1 ≤ n.toNat
  bars_le : n.toNat ≤ 256

/-- The commands that are long (R71). -/
def isLong : Instr → Bool
  | .genThr => true
  | .build _ => true
  | .commit => true
  | .run => true
  | .resolve _ _ => true
  | .qfreq _ _ => true
  | .nop => false
  | .clrerr => false
  | .sreset => false

/-- The commands that read the threshold configuration (the column "raised by" of R170, codes 1 to 4). -/
def readsBounds : Instr → Bool
  | .genThr => true
  | .run => true
  | .build _ => false
  | .commit => false
  | .resolve _ _ => false
  | .qfreq _ _ => false
  | .nop => false
  | .clrerr => false
  | .sreset => false

/-- The commands that read the scheme (R170, code 5). -/
def readsScheme : Instr → Bool
  | .build _ => true
  | .resolve _ _ => true
  | .qfreq _ _ => true
  | .run => true
  | .genThr => false
  | .commit => false
  | .nop => false
  | .clrerr => false
  | .sreset => false

/-- The commands that need thresholds (R170, code 6). -/
def needsThresholds : Instr → Bool
  | .build _ => true
  | .resolve _ _ => true
  | .genThr => false
  | .commit => false
  | .run => false
  | .qfreq _ _ => false
  | .nop => false
  | .clrerr => false
  | .sreset => false

/-- Whether, for command `i` issued in state `s`, the cause of an error code holds: one row of R170 each. -/
def causeHolds (s : State) (i : Instr) : ErrCode → Prop
  | .noError => False
  | .cfgRange => readsBounds i = true ∧ (0xFFFF < s.minFreq.toNat ∨ 0xFFFF < s.maxFreq.toNat)
  | .cfgMinZero => readsBounds i = true ∧ s.minFreq.toNat = 0
  | .cfgMinGeMax => readsBounds i = true ∧ s.maxFreq.toNat ≤ s.minFreq.toNat
  | .cfgNumBars => readsBounds i = true ∧ (s.numBars.toNat = 0 ∨ 256 < s.numBars.toNat)
  | .cfgScheme => readsScheme i = true ∧ 1 < s.scheme.toNat
  | .seqNoThr => needsThresholds i = true ∧ s.thrValid = false
  | .seqIncomplete => i = .commit ∧
      ((∃ r, (s.work r).valid = false) ∨ ∃ r r', (s.work r).scheme ≠ (s.work r').scheme)
  | .cmdIllegal => False
  | .cmdBusy => (isLong i = true ∨ i = .sreset) ∧ s.inflight ≠ none
  | .busAccess => False

/-- The order of the checks a command makes after decoding (R171). -/
def checkOrder : List ErrCode :=
  [.cmdBusy, .cfgRange, .cfgMinZero, .cfgMinGeMax, .cfgNumBars, .cfgScheme, .seqNoThr, .seqIncomplete]

/-- `c` is the first code of the order whose cause holds. -/
def FirstError (s : State) (i : Instr) (c : ErrCode) : Prop :=
  ∃ before after, checkOrder = before ++ c :: after ∧ causeHolds s i c ∧ ∀ d ∈ before, ¬ causeHolds s i d

/-- The record a long command puts in flight (R38), by command. -/
def flightOf (s : State) : Instr → Option InFlight
  | .genThr => some (s.snapshot .genThr .low 0#16)
  | .build r => some (s.snapshot .build r 0#16)
  | .commit => some (s.snapshot .commit .low 0#16)
  | .run => some (s.snapshot .run .low 0#16)
  | .resolve r f => some (s.snapshot .resolve r f)
  | .qfreq r idx => some (s.snapshot .qfreq r (idx.setWidth 16))
  | .nop => none
  | .clrerr => none
  | .sreset => none

/-! ### Bar resolution, as the spec's loop -/

/-- R122, line by line: the first `b` of `0..n` in order with `THR[b] ≤ f < THR[b+1]`; else the clamp; else the fallback. -/
def specResolve (table : List Half) (n f : Nat) (clamp : Bool) : Nat × Kind :=
  match (List.range n).find? (fun b => decide ((table.getD b 0#16).toNat ≤ f ∧ f < (table.getD (b + 1) 0#16).toNat)) with
  | some b => (b, .scan)
  | none =>
    if clamp = true ∧ (table.getD n 0#16).toNat ≤ f then (n - 1, .clamp)
    else (0, .fallback)

/-- The byte BuildTable stores for index `idx` over thresholds `table` with `n` bars (R126, R127). The high range alone clamps (R81, C2). -/
def specEntry (table : List Half) (n : Nat) (sch : Scheme) (r : Range) (idx : Nat) : Byte :=
  match freqOf sch r idx with
  | none => 0#8
  | some f => BitVec.ofNat 8 (specResolve table n f (decide (r = .high))).1

/-- Some index of range `r` that has a frequency resolves with kind `k`; the high range alone clamps (R81, C2). -/
def someIndexEnds (table : List Half) (n : Nat) (sch : Scheme) (r : Range) (k : Kind) : Prop :=
  ∃ idx f, idx < 256 ∧ freqOf sch r idx = some f ∧ (specResolve table n f (decide (r = .high))).2 = k

/-- The place of a range's first byte in the blob (R85). -/
def blobOffset : Range → Nat
  | .low => 0
  | .mid => 256
  | .high => 512

/-! ### Correct rounding -/

/-- A number of units of `2^-1074` that is a binary64 value: a 53-bit significand times a power of two. The format is PRESUMED, and no largest finite value is
given (notes/assumptions/11.md). -/
def Representable (y : Nat) : Prop := ∃ m k, y = m * 2 ^ k ∧ m < 2 ^ 53

/-- `y` is the binary64 value nearest the real `v` (both in units of `2^-1074`), ties to the even significand (R104), in the format of `Representable`
(notes/assumptions/11.md). -/
structure IsNearestEven (y : Nat) (v : ℝ) : Prop where
  representable : Representable y
  nearest : ∀ z, Representable z → |v - (y : ℝ)| ≤ |v - (z : ℝ)|
  ties_even : ∀ z, Representable z → z ≠ y → |v - (z : ℝ)| = |v - (y : ℝ)| → y / 2 ^ (y.log2 - 52) % 2 = 0

/-! ### Good states -/

/-- The record in flight passed its own acceptance checks (R171), and what they looked at still holds: nothing it rests on changes while it is in
flight (R152). -/
def FlightLegal (s : State) (c : InFlight) : Prop :=
  match c.op with
  | .genThr => LegalConfig c.min c.max c.n
  | .build => c.scheme.toNat ≤ 1 ∧ s.thrValid = true
  | .commit => (∀ r, (s.work r).valid = true) ∧ ∀ r r', (s.work r).scheme = (s.work r').scheme
  | .run => LegalConfig c.min c.max c.n ∧ c.scheme.toNat ≤ 1
  | .resolve => c.scheme.toNat ≤ 1 ∧ s.thrValid = true
  | .qfreq => c.scheme.toNat ≤ 1 ∧ c.arg.toNat < 256

/-- A good state: table sizes (R10, R31), the canonical form of OUT and its window (R35), the meaning of THR_VALID and THR_N (R30, R31), of the working
tables' valid bits (R32), bar indices below THR_N (R123 (d)), VariantB's masked bytes (R126), OUT before the first commit (R35), and a legal
record in flight. -/
structure State.Inv (s : State) : Prop where
  thr_length : s.thr.length = 257
  work_length : ∀ r, (s.work r).data.length = 256
  out_canonical : s.out.wf
  out_in_window : ∀ c ∈ s.out, outBase ≤ c.1 ∧ c.1 < outEnd
  no_thresholds : s.thrValid = false → s.thrN = 0#32 ∧ ∀ i, s.thrAt i = 0#16
  thrN_legal : s.thrValid = true → 1 ≤ s.thrN.toNat ∧ s.thrN.toNat ≤ 256
  thr_floor : s.thrAt 0 = 0#16
  thr_above : ∀ i, s.thrN.toNat < i → s.thrAt i = 0#16
  work_needs_thr : ∀ r, (s.work r).valid = true → s.thrValid = true
  bar_bound : ∀ r, (s.work r).valid = true → ∀ k, ((s.work r).at k).toNat < s.thrN.toNat
  mid_masked : s.mid.scheme = .variantB → ∀ k, 192 ≤ k → s.mid.at k = 0#8
  out_masked : s.outScheme = .variantB → ∀ k, 448 ≤ k → k < 512 → s.outAt k = 0#8
  no_blob : s.outValid = false → s.out = [] ∧ s.outScheme = .variantA
  flight_legal : ∀ c, s.inflight = some c → FlightLegal s c

/-- The source's invariants of the ThresholdTable (R31, R106): while THR_VALID is 1, `THR[0] = 0`, the entries do not decrease up to THR_N, and the
first bar's upper boundary is at least 1. A threshold configuration in flight is legal. -/
structure State.ThrInv (s : State) : Prop where
  floor : s.thrValid = true → s.thrAt 0 = 0#16
  sorted : s.thrValid = true → ∀ i, i < s.thrN.toNat → s.thrAt i ≤ s.thrAt (i + 1)
  first_pos : s.thrValid = true → 1 ≤ (s.thrAt 1).toNat
  flight : ∀ c, s.inflight = some c → c.op = .genThr ∨ c.op = .run → LegalConfig c.min c.max c.n

end Sys2Proof.Machine
end

