-- ==== Sys2Proof/Certificates/Slice0/Obligations.lean ====
section
/-! DEFINITION. The statements for the provers, from the numbered rules of spec/. Where a statement speaks of a long command it takes both of its events:
the acceptance, which `exec` performs at the CMD write, and the completion, which the next step performs when the engine's turn comes next. -/

open Sys2Proof Sys2Proof.Machine

/-! ### Encoding -/

/-- Decoding the word of any command gives the command back (R70 to R73). Every `Instr` is well formed: its operand types hold the legal values. -/
def Obligations.DecodeOfEncodeIsTheCommand : Prop :=
  ∀ i : Instr, decode (encode i) = .ok i

/-- A word that decodes is the word of the command it decodes to: no two words mean one command and no bit is ignored (R73). -/
def Obligations.EncodeOfDecodedWordIsTheWord : Prop :=
  ∀ (w : Word) (i : Instr), decode w = .ok i → encode i = w

/-- R72 and R73: the decoder accepts exactly the words that pass every check of R73, written on the word's bits, and the command it answers has the word's own OP, RANGE and
ARG fields, unsigned and unshifted. -/
def Obligations.DecodeFollowsTheSpecsDecodeFunction : Prop :=
  ∀ w : Word,
    ((∃ i, decode w = .ok i) ↔ WellFormed.legalWord w = true) ∧
    ∀ i, decode w = .ok i →
      fieldsOf i = (WellFormed.bits w 3 0, WellFormed.bits w 5 4, WellFormed.bits w 31 16)

/-- Words written out from the tables of 30_encoding.md decode to their commands, and some illegal ones do not. -/
def Obligations.SampleWordsDecode : Prop :=
  decode 0x00000000#32 = .ok .nop ∧ decode 0x00000001#32 = .ok .genThr ∧
  decode 0x00000012#32 = .ok (.build .mid) ∧ decode 0x00000003#32 = .ok .commit ∧
  decode 0x00000004#32 = .ok .run ∧ decode 0xFFFF0025#32 = .ok (.resolve .high 0xFFFF#16) ∧
  decode 0x00BF0016#32 = .ok (.qfreq .mid 191#8) ∧ decode 0x00000007#32 = .ok .clrerr ∧
  decode 0x00000008#32 = .ok .sreset ∧
  decode 0x00000032#32 = .error .rangeReserved ∧ decode 0x00000042#32 = .error .reservedBits ∧
  decode 0x01000006#32 = .error .indexTooWide

/-! ### The step -/

/-- When the next event is a write to CMD of a word that decodes to `i`, the step is `exec i` on the state with that event taken, and the bus answers
OKAY. -/
def Obligations.StepRunsTheDecodedCommand : Prop :=
  ∀ (s : State) (w : Word) (i : Instr) (rest : List Event),
    s.pending = .bus (.write 0x0000#16 .w4 w) :: rest → decode w = .ok i →
    step s = mapNext (fun t => t.respond (.okay none)) (exec i { s with pending := rest })

/-- R74: a word that is not legal issues no command, records CMD_ILLEGAL and changes nothing else, busy or idle; every word is the word of a command or
illegal. -/
def Obligations.IllegalWordRecordsCmdIllegalOnly : Prop :=
  (∀ w : Word, (∃ i, encode i = w ∧ decode w = .ok i) ∨ WellFormed.legalWord w = false) ∧
  ∀ (s : State) (w : Word) (rest : List Event),
    s.pending = .bus (.write 0x0000#16 .w4 w) :: rest → WellFormed.legalWord w = false →
    step s = .next { s with
      pending := rest
      err := if s.err = .noError then .cmdIllegal else s.err
      response := some (.okay none) }

/-- No step of the block stops, in any state (R174: an error changes no control flow). -/
def Obligations.EveryStepHasANextState : Prop :=
  ∀ s : State, ∃ t, step s = .next t

/-- R201: with nothing in flight and no input, nothing happens. -/
def Obligations.QuiescentBlockStaysAsItIs : Prop :=
  ∀ s : State, s.pending = [] → s.inflight = none → step s = .next s

/-- From every state, taking all the inputs and one step more leaves the block quiescent: whatever is in flight after the last input completes. That it completes in
ONE step once no input is left is the model's choice (DESIGN CHOICE, notes/assumptions/3.md): R151 and R200 say only that it completes in the end. -/
def Obligations.BlockBecomesQuiescentAfterItsInputs : Prop :=
  ∀ s : State, ∃ t, Host.Core.run Sys2Proof.core (s.pending.length + 1) s = .next t ∧
    t.pending = [] ∧ t.inflight = none

/-- A completion cannot fail, does not write ERR, and ends with nothing in flight (R151, R152). -/
def Obligations.CompletionNeverFailsNorWritesErr : Prop :=
  ∀ (s : State) (c : InFlight) (rest : List Event), s.inflight = some c → s.pending = .engine :: rest →
    ∃ t, step s = .next t ∧ t.err = s.err ∧ t.inflight = none ∧ t.pending = rest ∧
      t.minFreq = s.minFreq ∧ t.maxFreq = s.maxFreq ∧ t.numBars = s.numBars ∧ t.scheme = s.scheme

/-! ### Reset -/

/-- R39: every item of the complete state is 0 at reset, and INFLIGHT is none. -/
def Obligations.ResetStateIsAllZero : Prop :=
  State.reset.minFreq = 0#32 ∧ State.reset.maxFreq = 0#32 ∧ State.reset.numBars = 0#32 ∧
  State.reset.scheme = 0#32 ∧ State.reset.result = 0#32 ∧ State.reset.thrN = 0#32 ∧
  State.reset.thrValid = false ∧ (∀ i, State.reset.thrAt i = 0#16) ∧ State.reset.thr.length = 257 ∧
  (∀ r, (State.reset.work r).valid = false ∧ schemeBit (State.reset.work r).scheme = false ∧
    (State.reset.work r).data.length = 256 ∧ ∀ k, (State.reset.work r).at k = 0#8) ∧
  State.reset.outValid = false ∧ schemeBit State.reset.outScheme = false ∧
  (∀ k, State.reset.outAt k = 0#8) ∧ State.reset.unreach = false ∧ State.reset.clampHit = false ∧
  State.reset.err.code = 0#4 ∧ State.reset.inflight = none

/-- The reset input, in any state, gives every item of the block's state its reset value, abandoning a command in flight (R190); SRESET does the same when no
command is in flight (R158). That the inputs still to come and the last bus answer (`pending`, `response`: no state of the block) stay as they are is the model's choice
(DESIGN CHOICE, notes/assumptions/17.md). -/
def Obligations.ResetInputGivesTheResetState : Prop :=
  (∀ (s : State) (rest : List Event), s.pending = .reset :: rest →
    step s = .next { State.reset with pending := rest, response := s.response }) ∧
  (∀ s : State, s.inflight = none →
    exec .sreset s = .next { State.reset with pending := s.pending, response := s.response })

/-- The host reads 0 at every address right after a reset, from whatever state (the table derived after R190). -/
def Obligations.EveryAddressReadsZeroAfterReset : Prop :=
  ∀ (s t : State) (rest : List Event), s.pending = .reset :: rest → step s = .next t →
    t.status = 0#32 ∧ ∀ a, t.byteAt a = 0#8

/-! ### Errors -/

/-- R172: `raise Error(code)` keeps the first error since the last clear and changes nothing else. -/
def Obligations.FirstErrorIsKept : Prop :=
  ∀ (s : State) (c d : ErrCode),
    s.raise c = { s with err := (s.raise c).err } ∧
    (s.err = .noError → (s.raise c).err = c) ∧
    (s.err ≠ .noError → (s.raise c).err = s.err) ∧
    (c ≠ .noError → (s.raise c).raise d = s.raise c)

/-- R171 with the causes of R170: a command for which some cause holds records the first code of the fixed order (if ERR was 0) and has no other effect; a long
command for which none holds is put in flight with its snapshot, and nothing else changes; an illegal word is CMD_ILLEGAL before any of these, and an illegal transaction is
BUS_ACCESS before anything is decoded. -/
def Obligations.ChecksAreMadeInTheFixedOrder : Prop :=
  (∀ (s : State) (t : Transaction), t.legal = false →
    s.transact t = .next { s with
      err := if s.err = .noError then .busAccess else s.err
      response := some t.errorResponse }) ∧
  (∀ (s : State) (w : Word), WellFormed.legalWord w = false →
    s.onCmdWrite w = .next { s with err := if s.err = .noError then .cmdIllegal else s.err }) ∧
  (∀ (s : State) (i : Instr) (c : ErrCode), FirstError s i c →
    exec i s = .next { s with err := if s.err = .noError then c else s.err }) ∧
  (∀ (s : State) (i : Instr) (c : InFlight), (∀ e, ¬ causeHolds s i e) → flightOf s i = some c →
    exec i s = .next { s with inflight := some c })

/-- R194: a long command or SRESET written while a long command is in flight records CMD_BUSY; the command in flight completes as it would have, but for
ERR. -/
def Obligations.BusyBlockRejectsLongCommandsAndSreset : Prop :=
  ∀ (s : State) (i : Instr) (c : InFlight), s.inflight = some c → isLong i = true ∨ i = .sreset →
    ∃ t, exec i s = .next t ∧ t = { s with err := if s.err = .noError then .cmdBusy else s.err } ∧
      t.engineTurn = { s.engineTurn with err := t.err }

/-- R57: an illegal transaction is answered ERROR (data 0 for a read), records BUS_ACCESS, and changes nothing else. -/
def Obligations.IllegalTransactionRecordsBusAccessOnly : Prop :=
  ∀ (s : State) (t : Transaction) (rest : List Event), s.pending = .bus t :: rest →
    (t.addr % t.width.bytes ≠ 0 ∨ (t.width.bytes ≠ 4 ∧ t.addr < 0x2000)) →
    step s = .next { s with
      pending := rest
      err := if s.err = .noError then .busAccess else s.err
      response := some (match t with
        | .read _ _ => .error (some 0#32)
        | .write _ _ _ => .error none) }

/-! ### The immediate commands -/

/-- R156: NOP has no effect on any state, busy or idle, and is the one word 0: with any other bit set the word is not NOP. -/
def Obligations.NopHasNoEffect : Prop :=
  (∀ s : State, exec .nop s = .next s) ∧ ∀ w : Word, decode w = .ok .nop ↔ w = 0#32

/-- R157: CLRERR clears the three sticky fields, busy or idle, and nothing else; beside it only a reset (the input, or SRESET) clears one of them. -/
def Obligations.OnlyClrerrAndResetClearTheStickyFields : Prop :=
  (∀ s : State, exec .clrerr s =
    .next { s with err := .noError, unreach := false, clampHit := false }) ∧
  ∀ s t : State, step s = .next t →
    ((s.err ≠ .noError ∧ t.err ≠ s.err) ∨ (s.unreach = true ∧ t.unreach = false) ∨
      (s.clampHit = true ∧ t.clampHit = false)) →
    ∃ rest, s.pending = .reset :: rest ∨ s.pending = cmdWrite .clrerr :: rest ∨
      s.pending = cmdWrite .sreset :: rest

/-- SRESET when idle performs the reset event (the next state is given in full), and when a command is in flight it records CMD_BUSY and changes nothing
else (R158). That `pending` and `response`, no state of the block, stay through the reset is the model's choice (DESIGN CHOICE, notes/assumptions/17.md). -/
def Obligations.SresetResetsWhenIdleAndIsRefusedWhenBusy : Prop :=
  (∀ s : State, s.inflight = none → ∃ t, exec .sreset s = .next t ∧
    t = { State.reset with pending := s.pending, response := s.response } ∧ t.status = 0#32) ∧
  (∀ s : State, s.inflight ≠ none →
    exec .sreset s = .next { s with err := if s.err = .noError then .cmdBusy else s.err })

/-! ### The long commands: acceptance and completion -/

/-- GEN_THR from an idle block with a legal configuration is accepted, and its completion writes the thresholds, THR_N and THR_VALID, invalidates the working tables
(data and scheme bits kept), and changes nothing else (R108, R109). -/
def Obligations.GenThrWritesTheThresholds : Prop :=
  ∀ (s : State) (rest : List Event), s.inflight = none →
    LegalConfig s.minFreq s.maxFreq s.numBars → s.pending = .engine :: rest →
    ∃ t u, exec .genThr s = .next t ∧ t = { s with inflight := flightOf s .genThr } ∧ step t = .next u ∧
      u.thr.length = 257 ∧
      (∀ i, u.thrAt i =
        if 1 ≤ i ∧ i ≤ s.numBars.toNat then
          BitVec.ofNat 16 (thr s.minFreq.toNat s.maxFreq.toNat s.numBars.toNat i)
        else 0#16) ∧
      u = { s with
        thr := u.thr
        thrN := s.numBars
        thrValid := true
        low := { s.low with valid := false }
        mid := { s.mid with valid := false }
        high := { s.high with valid := false }
        pending := rest }

/-- BUILD from an idle block with thresholds and a scheme is accepted, and its completion stores, for every index, 0 where the index is masked and otherwise the bar the
spec's loop finds for its frequency; it sets the range's valid and scheme bits, sets UNREACH (CLAMP_HIT) exactly if some index falls back (is clamped), and changes
nothing else (R125 to R127, R129). -/
def Obligations.BuildFillsTheRangesWorkingTable : Prop :=
  ∀ (s : State) (r : Range) (rest : List Event), s.inflight = none → s.scheme.toNat ≤ 1 →
    s.thrValid = true → s.Inv → s.pending = .engine :: rest →
    ∃ t u, exec (.build r) s = .next t ∧ t = { s with inflight := flightOf s (.build r) } ∧ step t = .next u ∧
      (∀ idx, idx < 256 →
        (u.work r).at idx = specEntry s.thr s.thrN.toNat (schemeOfWord s.scheme) r idx) ∧
      (u.work r).data.length = 256 ∧ (u.work r).valid = true ∧
      (u.work r).scheme = schemeOfWord s.scheme ∧
      (∀ r', r' ≠ r → u.work r' = s.work r') ∧
      (u.unreach = true ↔ s.unreach = true ∨
        someIndexEnds s.thr s.thrN.toNat (schemeOfWord s.scheme) r .fallback) ∧
      (u.clampHit = true ↔ s.clampHit = true ∨
        someIndexEnds s.thr s.thrN.toNat (schemeOfWord s.scheme) r .clamp) ∧
      u = { s with
        low := u.low
        mid := u.mid
        high := u.high
        unreach := u.unreach
        clampHit := u.clampHit
        pending := rest }

/-- RESOLVE from an idle block with thresholds and a scheme is accepted, and its completion writes RESULT (bar in 7:0, CLAMPED in 8, FALLBACK in 9, the rest 0) with what
the spec's loop finds, the high range alone clamping; it sets the flag of that resolution, and changes nothing else (R81, R84, R122, R125, R131). -/
def Obligations.ResolveWritesTheResolutionToResult : Prop :=
  ∀ (s : State) (r : Range) (f : Half) (rest : List Event), s.inflight = none → s.scheme.toNat ≤ 1 →
    s.thrValid = true → s.Inv → s.pending = .engine :: rest →
    ∃ t u b k, exec (.resolve r f) s = .next t ∧ t = { s with inflight := flightOf s (.resolve r f) } ∧
      step t = .next u ∧
      (b, k) = specResolve s.thr s.thrN.toNat f.toNat (decide (r = .high)) ∧
      u.result.toNat = b + (if k = .clamp then 2 ^ 8 else 0) + (if k = .fallback then 2 ^ 9 else 0) ∧
      b < 256 ∧
      u = { s with
        result := u.result
        unreach := s.unreach || decide (k = .fallback)
        clampHit := s.clampHit || decide (k = .clamp)
        pending := rest }

/-- QFREQ from an idle block with a scheme is accepted (thresholds are not needed), and its completion writes RESULT with the frequency of the source's formula, or with
INVALID for VariantB's mid indices from 192 on, and changes nothing else (R81, R121, R133). -/
def Obligations.QfreqWritesTheFrequencyToResult : Prop :=
  ∀ (s : State) (r : Range) (idx : Byte) (rest : List Event), s.inflight = none → s.scheme.toNat ≤ 1 →
    s.pending = .engine :: rest →
    ∃ t u, exec (.qfreq r idx) s = .next t ∧ t = { s with inflight := flightOf s (.qfreq r idx) } ∧
      step t = .next u ∧
      u.result.toNat =
        (match r with
        | .low => idx.toNat * 16 + 8
        | .high => idx.toNat * 256 + 128
        | .mid =>
          if s.scheme.toNat = 0 then 0x1000 + idx.toNat * 32 + 16
          else if idx.toNat < 192 then 0x1000 + idx.toNat * 64 + 32
          else 0x10000) ∧
      u = { s with result := u.result, pending := rest }

/-- COMMIT from an idle block with three valid working tables of one scheme is accepted, and its completion makes OUT the concatenation low, mid, high, sets OUT_VALID and
OUT_SCHEME, and changes nothing else (R85, R153). -/
def Obligations.CommitWritesTheBlob : Prop :=
  ∀ (s : State) (rest : List Event), s.inflight = none → (∀ r, (s.work r).valid = true) →
    (∀ r r', (s.work r).scheme = (s.work r').scheme) → s.Inv → s.pending = .engine :: rest →
    ∃ t u, exec .commit s = .next t ∧ t = { s with inflight := flightOf s .commit } ∧ step t = .next u ∧
      (∀ r k, k < 256 → u.outAt (blobOffset r + k) = (s.work r).at k) ∧
      (∀ a, (a < 0x2000 ∨ 0x2300 ≤ a) → u.out.read a = 0#8) ∧ u.out.wf ∧
      u = { s with out := u.out, outValid := true, outScheme := s.low.scheme, pending := rest }

/-- RUN from an idle block with a legal configuration and a scheme is accepted, and its completion writes the thresholds, then the three working tables from them, then the
blob from those; it sets the valid bits, THR_N and OUT_SCHEME (STATUS bit 12: 1 exactly for SCHEME = 1), sets UNREACH (CLAMP_HIT) exactly if some index falls back (is
clamped), and changes nothing else (R154). -/
def Obligations.RunWritesThresholdsTablesAndBlob : Prop :=
  ∀ (s : State) (rest : List Event), s.inflight = none →
    LegalConfig s.minFreq s.maxFreq s.numBars → s.scheme.toNat ≤ 1 → s.pending = .engine :: rest →
    ∃ t u, exec .run s = .next t ∧ t = { s with inflight := flightOf s .run } ∧ step t = .next u ∧
      u.thr.length = 257 ∧
      (∀ i, u.thrAt i =
        if 1 ≤ i ∧ i ≤ s.numBars.toNat then
          BitVec.ofNat 16 (thr s.minFreq.toNat s.maxFreq.toNat s.numBars.toNat i)
        else 0#16) ∧
      (∀ r k, k < 256 →
        (u.work r).at k = specEntry u.thr s.numBars.toNat (schemeOfWord s.scheme) r k ∧
        u.outAt (blobOffset r + k) = (u.work r).at k) ∧
      (∀ r, (u.work r).valid = true ∧ (u.work r).scheme = schemeOfWord s.scheme ∧
        (u.work r).data.length = 256) ∧
      (u.unreach = true ↔ s.unreach = true ∨
        ∃ r, someIndexEnds u.thr s.numBars.toNat (schemeOfWord s.scheme) r .fallback) ∧
      (u.clampHit = true ↔ s.clampHit = true ∨
        ∃ r, someIndexEnds u.thr s.numBars.toNat (schemeOfWord s.scheme) r .clamp) ∧
      (u.status.getLsbD 12 = true ↔ s.scheme.toNat = 1) ∧
      (∀ a, (a < 0x2000 ∨ 0x2300 ≤ a) → u.out.read a = 0#8) ∧
      u = { s with
        thr := u.thr
        thrN := s.numBars
        thrValid := true
        low := u.low
        mid := u.mid
        high := u.high
        out := u.out
        outValid := true
        outScheme := schemeOfWord s.scheme
        unreach := u.unreach
        clampHit := u.clampHit
        pending := rest }

/-! ### Frames over the bus: what a host reads, byte by byte -/

/-- No command but SRESET changes, at its CMD write, any byte the host can read outside STATUS (0x0004 to 0x0007). -/
def Obligations.CmdWriteChangesNoByteButStatus : Prop :=
  ∀ (i : Instr) (s t : State), i ≠ .sreset → exec i s = .next t →
    ∀ a, ¬ (4 ≤ a ∧ a < 8) → t.byteAt a = s.byteAt a

/-- A completion changes no byte the host can read outside STATUS and the places its command writes: RESULT for RESOLVE and QFREQ, THR_N and the THR window for GEN_THR, the
OUT window for COMMIT, these last three for RUN, nothing for BUILD. -/
def Obligations.CompletionChangesNoByteItsCommandDoesNotWrite : Prop :=
  ∀ (s : State) (c : InFlight), s.inflight = some c → ∀ a, ¬ (4 ≤ a ∧ a < 8) →
    (c.op = .build → s.engineTurn.byteAt a = s.byteAt a) ∧
    (c.op = .resolve ∨ c.op = .qfreq → ¬ (0x18 ≤ a ∧ a < 0x1C) → s.engineTurn.byteAt a = s.byteAt a) ∧
    (c.op = .genThr → ¬ (0x1C ≤ a ∧ a < 0x20) → ¬ (0x1000 ≤ a ∧ a < 0x1404) →
      s.engineTurn.byteAt a = s.byteAt a) ∧
    (c.op = .commit → ¬ (0x2000 ≤ a ∧ a < 0x2300) → s.engineTurn.byteAt a = s.byteAt a) ∧
    (c.op = .run → ¬ (0x1C ≤ a ∧ a < 0x20) → ¬ (0x1000 ≤ a ∧ a < 0x1404) →
      ¬ (0x2000 ≤ a ∧ a < 0x2300) → s.engineTurn.byteAt a = s.byteAt a)

/-- R195: while a command is in flight, no host transaction changes RESULT, THR_N, the thresholds, OUT or a valid bit, nor the record in flight: the host reads the
values from before the command, and reading them records no error. -/
def Obligations.ResultsKeepTheirOldValuesUntilCompletion : Prop :=
  ∀ (s u : State) (c : InFlight) (t : Transaction) (rest : List Event), s.inflight = some c →
    s.pending = .bus t :: rest → step s = .next u →
    u.inflight = some c ∧ u.result = s.result ∧ u.thrN = s.thrN ∧ u.thr = s.thr ∧ u.out = s.out ∧
      u.thrValid = s.thrValid ∧ (∀ r, u.work r = s.work r) ∧ u.outValid = s.outValid ∧
      u.outScheme = s.outScheme ∧
      (∀ a, 0x18 ≤ a → u.byteAt a = s.byteAt a) ∧
      (∀ a w, t = .read a w → t.legal = true → u.err = s.err)

/-- OUT changes only at the completion of a COMMIT or a RUN, or by a reset (R35, R158, R190). -/
def Obligations.BlobChangesOnlyAtCommitRunOrReset : Prop :=
  ∀ s t : State, step s = .next t → t.out ≠ s.out →
    (∃ c, s.inflight = some c ∧ (c.op = .commit ∨ c.op = .run) ∧
      (s.pending = [] ∨ ∃ rest, s.pending = .engine :: rest)) ∨
    (∃ rest, s.pending = .reset :: rest) ∨ ∃ rest, s.pending = cmdWrite .sreset :: rest

/-- R26: a write to a configuration register changes only the register, busy or idle, and never affects a command already accepted: its completion comes out the same. -/
def Obligations.ConfigurationWriteNeverAffectsTheCommandInFlight : Prop :=
  ∀ (s : State) (a : BitVec 16) (v : Word) (rest : List Event),
    a.toNat = 0x08 ∨ a.toNat = 0x0C ∨ a.toNat = 0x10 ∨ a.toNat = 0x14 →
    s.pending = .bus (.write a .w4 v) :: rest →
    ∃ t, step s = .next t ∧
      t = { s with
        minFreq := if a.toNat = 0x08 then v else s.minFreq
        maxFreq := if a.toNat = 0x0C then v else s.maxFreq
        numBars := if a.toNat = 0x10 then v else s.numBars
        scheme := if a.toNat = 0x14 then v else s.scheme
        pending := rest
        response := some (.okay none) } ∧
      t.engineTurn = { s.engineTurn with
        minFreq := t.minFreq
        maxFreq := t.maxFreq
        numBars := t.numBars
        scheme := t.scheme
        pending := rest
        response := t.response }

/-! ### The bus -/

/-- R58 and R59: a legal write to a reserved or read-only address is answered OKAY, changes nothing and records no error. -/
def Obligations.WritesToReservedAndReadOnlyAddressesAreIgnored : Prop :=
  ∀ (s : State) (a : BitVec 16) (w : Width) (v : Word) (rest : List Event),
    s.pending = .bus (.write a w v) :: rest → a.toNat % w.bytes = 0 → (w.bytes = 4 ∨ 0x2000 ≤ a.toNat) →
    ¬ (a.toNat = 0 ∨ a.toNat = 0x08 ∨ a.toNat = 0x0C ∨ a.toNat = 0x10 ∨ a.toNat = 0x14) →
    step s = .next { s with pending := rest, response := some (.okay none) }

/-- Reserved addresses and CMD read as 0 (R27, R58). -/
def Obligations.ReservedAddressesReadZero : Prop :=
  ∀ (s : State) (a : Nat),
    (a < 4 ∨ (0x20 ≤ a ∧ a < 0x1000) ∨ (0x1404 ≤ a ∧ a < 0x2000) ∨ 0x2300 ≤ a) → s.byteAt a = 0#8

/-- A legal read changes nothing but the bus answer, so two legal reads of one address with nothing but legal reads between them answer alike; and a legal write to any
address but CMD stores its value in the one configuration register at that address, if there is one, and does nothing else (R60). What an illegal access does is R57's. -/
def Obligations.ReadsHaveNoSideEffect : Prop :=
  (∀ (s : State) (a : BitVec 16) (w : Width) (rest : List Event),
    (Transaction.read a w).legal = true → s.pending = .bus (.read a w) :: rest →
    ∃ t, step s = .next t ∧ t = { s with pending := rest, response := t.response }) ∧
  (∀ (s : State) (a : BitVec 16) (w : Width) (between : List (BitVec 16 × Width)) (rest : List Event),
    (Transaction.read a w).legal = true → (∀ p ∈ between, (Transaction.read p.1 p.2).legal = true) →
    s.pending = .bus (.read a w) ::
      (between.map (fun p => .bus (.read p.1 p.2)) ++ .bus (.read a w) :: rest) →
    ∃ t u, step s = .next t ∧ Host.Core.run Sys2Proof.core (between.length + 1) t = .next u ∧
      u.response = t.response ∧ u = { s with pending := rest, response := u.response }) ∧
  (∀ (s : State) (a : BitVec 16) (w : Width) (v : Word) (rest : List Event),
    (Transaction.write a w v).legal = true → a.toNat ≠ 0 → s.pending = .bus (.write a w v) :: rest →
    step s = .next { s with
      minFreq := if a.toNat = 0x08 then v else s.minFreq
      maxFreq := if a.toNat = 0x0C then v else s.maxFreq
      numBars := if a.toNat = 0x10 then v else s.numBars
      scheme := if a.toNat = 0x14 then v else s.scheme
      pending := rest
      response := some (.okay none) })

/-- R56: a legal read of `n` bytes, through the step and for every width, answers OKAY with the little-endian sum of the `n` bytes, and a register's bytes are its
8-bit slices, so a 4-byte read of a register answers the register. -/
def Obligations.ReadsAreLittleEndian : Prop :=
  (∀ (s : State) (t : Transaction),
    (s.readData t).toNat = ∑ j ∈ Finset.range t.width.bytes, (s.byteAt (t.addr + j)).toNat * 2 ^ (8 * j)) ∧
  (∀ (s : State) (a : BitVec 16), a.toNat % 4 = 0 → a.toNat < 0x2000 →
    (∀ j, j < 4 → s.byteAt (a.toNat + j) = (s.wordAt a.toNat).extractLsb' (8 * j) 8) ∧
    s.readData (.read a .w4) = s.wordAt a.toNat) ∧
  (∀ (s : State) (a : BitVec 16) (w : Width) (rest : List Event),
    (Transaction.read a w).legal = true → s.pending = .bus (.read a w) :: rest →
    step s = .next { s with pending := rest, response := some (.okay (some (s.readData (.read a w)))) })

/-- A 4-byte read of each register answers that register (R52, R53), through the step. -/
def Obligations.RegistersReadBack : Prop :=
  ∀ (s t : State) (a : BitVec 16) (rest : List Event), s.pending = .bus (.read a .w4) :: rest →
    step s = .next t →
    (a.toNat = 0x00 → t.response = some (.okay (some 0#32))) ∧
    (a.toNat = 0x04 → t.response = some (.okay (some s.status))) ∧
    (a.toNat = 0x08 → t.response = some (.okay (some s.minFreq))) ∧
    (a.toNat = 0x0C → t.response = some (.okay (some s.maxFreq))) ∧
    (a.toNat = 0x10 → t.response = some (.okay (some s.numBars))) ∧
    (a.toNat = 0x14 → t.response = some (.okay (some s.scheme))) ∧
    (a.toNat = 0x18 → t.response = some (.okay (some s.result))) ∧
    (a.toNat = 0x1C → t.response = some (.okay (some s.thrN)))

/-- R54: a 4-byte aligned read of entry `i` of the THR window answers the entry, zero-extended: the threshold when THR_VALID is 1 and `i ≤ THR_N`, and 0 otherwise; the
rest of the region reads 0, and legal writes are ignored. -/
def Obligations.ThrWindowReadsTheThresholds : Prop :=
  (∀ (s t : State) (a : BitVec 16) (i : Nat) (rest : List Event), s.Inv → i ≤ 256 →
    a.toNat = 0x1000 + 4 * i → s.pending = .bus (.read a .w4) :: rest → step s = .next t →
    t.response = some (.okay (some ((s.thrAt i).setWidth 32))) ∧
    (s.thrValid = false ∨ s.thrN.toNat < i → t.response = some (.okay (some 0#32)))) ∧
  (∀ (s t : State) (a : BitVec 16) (rest : List Event), 0x1404 ≤ a.toNat → a.toNat < 0x2000 →
    a.toNat % 4 = 0 → s.pending = .bus (.read a .w4) :: rest → step s = .next t →
    t.response = some (.okay (some 0#32))) ∧
  (∀ (s : State) (a : BitVec 16) (v : Word) (rest : List Event), 0x1000 ≤ a.toNat → a.toNat < 0x2000 →
    a.toNat % 4 = 0 → s.pending = .bus (.write a .w4 v) :: rest →
    step s = .next { s with pending := rest, response := some (.okay none) }) ∧
  (∀ (s : State) (a : BitVec 16) (w : Width) (rest : List Event), 0x1000 ≤ a.toNat → a.toNat < 0x2000 →
    (w ≠ .w4 ∨ a.toNat % 4 ≠ 0) → s.pending = .bus (.read a w) :: rest →
    ∃ t, step s = .next t ∧ t.response = some (.error (some 0#32)))

/-- Each field of STATUS stands at its bits, and bits 31:13 read 0 (R28); ERR holds the code of the error table (R170), and bit 12 is 1 exactly for a valid blob of
VariantB. -/
def Obligations.StatusFieldsStandAtTheirBits : Prop :=
  ∀ s : State,
    s.status.getLsbD 0 = s.inflight.isSome ∧ s.status.getLsbD 1 = s.thrValid ∧
    s.status.getLsbD 2 = s.low.valid ∧ s.status.getLsbD 3 = s.mid.valid ∧
    s.status.getLsbD 4 = s.high.valid ∧ s.status.getLsbD 5 = s.outValid ∧
    s.status.getLsbD 6 = s.unreach ∧ s.status.getLsbD 7 = s.clampHit ∧
    s.status.extractLsb' 8 4 = s.err.code ∧
    s.status.toNat / 2 ^ 8 % 2 ^ 4 =
      (match s.err with
      | .noError => 0
      | .cfgRange => 1
      | .cfgMinZero => 2
      | .cfgMinGeMax => 3
      | .cfgNumBars => 4
      | .cfgScheme => 5
      | .seqNoThr => 6
      | .seqIncomplete => 7
      | .cmdIllegal => 8
      | .cmdBusy => 9
      | .busAccess => 10) ∧
    (s.status.getLsbD 12 = true ↔ s.outValid = true ∧ s.outScheme = .variantB) ∧
    s.status.extractLsb' 13 19 = 0#19

/-- R177: within one clock cycle the reset input comes before every other event, and a completion before a write to CMD, which then finds nothing in flight.
That a cycle holds one host transaction at most is the model's choice (DESIGN CHOICE, notes/assumptions/22.md). -/
def Obligations.CycleOrderPutsResetThenCompletionFirst : Prop :=
  (∀ c : Cycle, c.reset = true → ∃ rest, c.events = .reset :: rest ∧ Event.reset ∉ rest) ∧
  (∀ (c : Cycle) (w : Word), c.reset = false → c.completion = true → c.bus = some (.write 0x0000#16 .w4 w) →
    c.events = [.engine, .bus (.write 0x0000#16 .w4 w)] ∧
    ∀ s : State, s.pending = c.events → ∃ t, step s = .next t ∧ t.inflight = none ∧
      t.pending = [.bus (.write 0x0000#16 .w4 w)])

/-! ### The numeric core -/

/-- `round64` of a quotient is the representable value nearest to it, ties to even (R104). The format (53-bit significands, units of 2^-1074) is PRESUMED, and it has no
largest finite value: above binary64's own the result is no binary64 value (notes/assumptions/11.md). -/
def Obligations.Round64IsNearestEven : Prop :=
  ∀ num den : Nat, 0 < den → IsNearestEven (round64 num den) ((num : ℝ) / (den : ℝ))

/-- `pow64(q, e)` is the representable value nearest the real `q^e`, ties to even, for a representable base `q ≥ 1` and an exponent `0 < e ≤ 1` (R104). The format, without
a largest finite value, is PRESUMED (notes/assumptions/11.md). -/
def Obligations.Pow64IsCorrectlyRounded : Prop :=
  ∀ q e : Nat, Representable q → unit64 ≤ q → 0 < e → e ≤ unit64 →
    IsNearestEven (pow64 q e)
      ((unit64 : ℝ) * ((q : ℝ) / (unit64 : ℝ)) ^ ((e : ℝ) / (unit64 : ℝ)))

/-- The floor of the threshold formula is MAX_FREQ at the top, and at most MAX_FREQ, so below 2^16, everywhere: the final truncation to 16 bits never changes the value,
and the top threshold is MAX_FREQ (R106 (b), first sentence of R105). -/
def Obligations.TopThresholdIsMaxFreq : Prop :=
  ∀ min max n : Word, LegalConfig min max n →
    thrFloor min.toNat max.toNat n.toNat n.toNat = max.toNat ∧
    thr min.toNat max.toNat n.toNat n.toNat = max.toNat ∧
    ∀ i, 1 ≤ i → i ≤ n.toNat →
      thrFloor min.toNat max.toNat n.toNat i ≤ max.toNat ∧
      thrFloor min.toNat max.toNat n.toNat i < 2 ^ 16 ∧
      thr min.toNat max.toNat n.toNat i = thrFloor min.toNat max.toNat n.toNat i

/-- Thresholds do not decrease, and lie between MIN_FREQ and MAX_FREQ (R106 (c), (d)). -/
def Obligations.ThresholdsRiseBetweenMinAndMax : Prop :=
  ∀ min max n : Word, LegalConfig min max n →
    (∀ i, 1 ≤ i → i ≤ n.toNat → min.toNat ≤ thr min.toNat max.toNat n.toNat i ∧
      thr min.toNat max.toNat n.toNat i ≤ max.toNat) ∧
    ∀ i, 1 ≤ i → i < n.toNat →
      thr min.toNat max.toNat n.toNat i ≤ thr min.toNat max.toNat n.toNat (i + 1)

/-- R81, R82: the presets are the spec's table (BASE, SHIFT, OFFSET, COUNT, CLAMP: 1 for the high range alone), both are well formed, and every representative
frequency fits 16 bits. -/
def Obligations.PresetsAreWellFormed : Prop :=
  ∀ (sch : Scheme) (r : Range),
    ((preset sch r).base, (preset sch r).shift, (preset sch r).offset, (preset sch r).count, (preset sch r).clamp) =
      (match sch, r with
      | .variantA, .low => (0x0000, 4, 8, 256, false)
      | .variantA, .mid => (0x1000, 5, 16, 256, false)
      | .variantA, .high => (0x0000, 8, 128, 256, true)
      | .variantB, .low => (0x0000, 4, 8, 256, false)
      | .variantB, .mid => (0x1000, 6, 32, 192, false)
      | .variantB, .high => (0x0000, 8, 128, 256, true)) ∧
    1 ≤ (preset sch r).count ∧ (preset sch r).count ≤ 256 ∧
    (preset sch r).base + ((preset sch r).count - 1) * 2 ^ (preset sch r).shift + (preset sch r).offset ≤ 0xFFFF ∧
    ∀ idx f, freqOf sch r idx = some f → f ≤ 0xFFFF

/-- R122: the resolution is the spec's loop: the first bar in order whose half-open interval holds the frequency, else the clamp, else the fallback. -/
def Obligations.ResolutionIsTheSpecsLoop : Prop :=
  ∀ (table : List Half) (n f : Nat) (clamp : Bool), table.length = 257 → n ≤ 256 →
    resolve table n f clamp = specResolve table n f clamp

/-- Over a table that starts at 0 and does not decrease: at most one bar matches, the scan matches exactly below the top threshold, a failed scan clamps or falls back by the
range's rule, an empty bar is never the answer of a scan, and every result is a bar of the table (R123 (a) to (d)). -/
def Obligations.ResolutionOverASortedTable : Prop :=
  ∀ (table : List Half) (n f : Nat) (clamp : Bool), table.length = 257 → 1 ≤ n → n ≤ 256 →
    table.getD 0 0#16 = 0#16 → (∀ i, i < n → table.getD i 0#16 ≤ table.getD (i + 1) 0#16) →
    (resolve table n f clamp).1 < n ∧
    (f < (table.getD n 0#16).toNat → (resolve table n f clamp).2 = .scan ∧
      (table.getD (resolve table n f clamp).1 0#16).toNat ≤ f ∧
      f < (table.getD ((resolve table n f clamp).1 + 1) 0#16).toNat ∧
      ∀ b, b < n → (table.getD b 0#16).toNat ≤ f → f < (table.getD (b + 1) 0#16).toNat →
        b = (resolve table n f clamp).1) ∧
    ((table.getD n 0#16).toNat ≤ f →
      resolve table n f clamp = if clamp = true then (n - 1, .clamp) else (0, .fallback))

/-- R126: under VariantB the mid entries 192 to 255 are 0, and no resolution is made for them: BuildTable makes 192 resolutions there, one for each index with a
frequency. -/
def Obligations.MaskedEntriesAreZeroAndUnresolved : Prop :=
  ∀ s : State,
    (∀ idx, 192 ≤ idx → idx < 256 → freqOf .variantB .mid idx = none ∧
      ((s.buildTable .variantB .mid).work .mid).at idx = 0#8) ∧
    (entryKinds (s.bandEntries .variantB .mid)).length = 192

/-- R128: BuildTable reads only the thresholds and THR_N, and building two different ranges in either order gives the same state. -/
def Obligations.RangesAreIndependent : Prop :=
  ∀ (s : State) (sch sch' : Scheme) (r r' : Range), r ≠ r' →
    (s.buildTable sch r).buildTable sch' r' = (s.buildTable sch' r').buildTable sch r ∧
    ∀ s' : State, s'.thr = s.thr → s'.thrN = s.thrN →
      (s'.buildTable sch r).work r = (s.buildTable sch r).work r

/-! ### Headline results -/

/-- From an idle block with a legal configuration, RUN leaves the very same state as GEN_THR, BUILD low, BUILD mid, BUILD high and COMMIT, each waited for (R193). -/
def Obligations.RunEqualsTheStepByStepPipeline : Prop :=
  ∀ (s : State) (rest : List Event), s.inflight = none →
    LegalConfig s.minFreq s.maxFreq s.numBars → s.scheme.toNat ≤ 1 →
    ∃ u, Host.Core.run Sys2Proof.core 2 { s with pending := [cmdWrite .run, .engine] ++ rest } = .next u ∧
      Host.Core.run Sys2Proof.core 10
        { s with pending := [cmdWrite .genThr, .engine, cmdWrite (.build .low), .engine,
            cmdWrite (.build .mid), .engine, cmdWrite (.build .high), .engine, cmdWrite .commit, .engine]
            ++ rest } = .next u ∧
      u.outValid = true ∧ u.inflight = none ∧ u.err = s.err ∧ u.pending = rest

/-- The blob and the thresholds depend on the configuration alone: two idle blocks with the same configuration, whatever else they hold, read alike over the THR and OUT
windows after a RUN (R159). -/
def Obligations.BlobDependsOnTheConfigurationAlone : Prop :=
  ∀ s s' : State, s.inflight = none → s'.inflight = none →
    LegalConfig s.minFreq s.maxFreq s.numBars → s.scheme.toNat ≤ 1 →
    s'.minFreq = s.minFreq → s'.maxFreq = s.maxFreq → s'.numBars = s.numBars → s'.scheme = s.scheme →
    ∃ u u', Host.Core.run Sys2Proof.core 2 { s with pending := [cmdWrite .run, .engine] } = .next u ∧
      Host.Core.run Sys2Proof.core 2 { s' with pending := [cmdWrite .run, .engine] } = .next u' ∧
      u.outValid = true ∧ u'.outValid = true ∧ u.outScheme = u'.outScheme ∧
      ∀ a, 0x1000 ≤ a → u.byteAt a = u'.byteAt a

/-- The reset state is good. -/
def Obligations.ResetStateIsGood : Prop := State.reset.Inv ∧ State.reset.ThrInv

/-- Every step from a good state leads to a good state: table sizes, OUT's canonical form, the meaning of the valid bits, bar indices below THR_N, VariantB's masked bytes, and
a record in flight that passed its checks. -/
def Obligations.EveryStepKeepsTheStateGood : Prop :=
  ∀ s t : State, s.Inv → step s = .next t → t.Inv

/-- R31: in every state that a step can reach from one where it holds, the ThresholdTable satisfies the source's invariants while THR_VALID is 1. -/
def Obligations.EveryStepKeepsTheThresholdsSorted : Prop :=
  ∀ s t : State, s.ThrInv → step s = .next t → t.ThrInv

/-! ### The OUT window and the threshold formula -/

/-- R55: a read of 1, 2 or 4 bytes at `0x2000 + k`, aligned to its width and inside the window, answers OKAY with the bytes `OUT[k..k+n]` in little-endian order and changes
nothing else; a byte of the window is the byte of OUT at its place; and legal writes are ignored. -/
def Obligations.OutWindowReadsTheBlob : Prop :=
  (∀ (s : State) (a : BitVec 16) (w : Width) (k : Nat) (rest : List Event),
    a.toNat = 0x2000 + k → k % w.bytes = 0 → k + w.bytes ≤ 768 → s.pending = .bus (.read a w) :: rest →
    ∃ d : Word, step s = .next { s with pending := rest, response := some (.okay (some d)) } ∧
      d.toNat = ∑ j ∈ Finset.range w.bytes, (s.outAt (k + j)).toNat * 2 ^ (8 * j)) ∧
  (∀ (s : State) (k : Nat), k < 768 → s.byteAt (0x2000 + k) = s.outAt k) ∧
  (∀ (s : State) (a : BitVec 16) (w : Width) (v : Word) (k : Nat) (rest : List Event),
    a.toNat = 0x2000 + k → k % w.bytes = 0 → k + w.bytes ≤ 768 → s.pending = .bus (.write a w v) :: rest →
    step s = .next { s with pending := rest, response := some (.okay none) })

/-- The threshold is what the steps of R104 give, each one an exact real value rounded to the nearest representable one, ties to even: q = max/min, e = i/n, p = q^e,
x = min·p, y = x + 0.5, and then the floor of y modulo 2^16 (R103, R104). Values are in units of 2^-1074. The binary64 format is PRESUMED (notes/assumptions/11.md). -/
def Obligations.ThresholdIsTheSpecsRoundedSteps : Prop :=
  ∀ (min max n : Word) (i : Nat), LegalConfig min max n → 1 ≤ i → i ≤ n.toNat →
    ∃ q e p x y : Nat,
      IsNearestEven q ((unit64 : ℝ) * ((max.toNat : ℝ) / (min.toNat : ℝ))) ∧
      IsNearestEven e ((unit64 : ℝ) * ((i : ℝ) / (n.toNat : ℝ))) ∧
      IsNearestEven p ((unit64 : ℝ) * ((q : ℝ) / (unit64 : ℝ)) ^ ((e : ℝ) / (unit64 : ℝ))) ∧
      IsNearestEven x ((min.toNat : ℝ) * (p : ℝ)) ∧
      IsNearestEven y ((x : ℝ) + (unit64 : ℝ) / 2) ∧
      unit64 = 2 ^ 1074 ∧
      thrFloor min.toNat max.toNat n.toNat i = ⌊(y : ℝ) / (unit64 : ℝ)⌋₊ ∧
      thr min.toNat max.toNat n.toNat i = ⌊(y : ℝ) / (unit64 : ℝ)⌋₊ % 2 ^ 16
end

