-- ==== Sys2Proof/Laws/State.lean ====
section
/-! SUPPORT. What each named update of State does to each field: one lemma per field per update. -/

namespace Sys2Proof.Machine

variable (s : State)

/-! ### `raise` -/

@[simp] theorem State.raise_minFreq (c : ErrCode) : (s.raise c).minFreq = s.minFreq := rfl
@[simp] theorem State.raise_maxFreq (c : ErrCode) : (s.raise c).maxFreq = s.maxFreq := rfl
@[simp] theorem State.raise_numBars (c : ErrCode) : (s.raise c).numBars = s.numBars := rfl
@[simp] theorem State.raise_scheme (c : ErrCode) : (s.raise c).scheme = s.scheme := rfl
@[simp] theorem State.raise_result (c : ErrCode) : (s.raise c).result = s.result := rfl
@[simp] theorem State.raise_thrN (c : ErrCode) : (s.raise c).thrN = s.thrN := rfl
@[simp] theorem State.raise_thrValid (c : ErrCode) : (s.raise c).thrValid = s.thrValid := rfl
@[simp] theorem State.raise_thr (c : ErrCode) : (s.raise c).thr = s.thr := rfl
@[simp] theorem State.raise_low (c : ErrCode) : (s.raise c).low = s.low := rfl
@[simp] theorem State.raise_mid (c : ErrCode) : (s.raise c).mid = s.mid := rfl
@[simp] theorem State.raise_high (c : ErrCode) : (s.raise c).high = s.high := rfl
@[simp] theorem State.raise_out (c : ErrCode) : (s.raise c).out = s.out := rfl
@[simp] theorem State.raise_outValid (c : ErrCode) : (s.raise c).outValid = s.outValid := rfl
@[simp] theorem State.raise_outScheme (c : ErrCode) : (s.raise c).outScheme = s.outScheme := rfl
@[simp] theorem State.raise_unreach (c : ErrCode) : (s.raise c).unreach = s.unreach := rfl
@[simp] theorem State.raise_clampHit (c : ErrCode) : (s.raise c).clampHit = s.clampHit := rfl
@[simp] theorem State.raise_err (c : ErrCode) : (s.raise c).err = if s.err = .noError then c else s.err := rfl
@[simp] theorem State.raise_inflight (c : ErrCode) : (s.raise c).inflight = s.inflight := rfl
@[simp] theorem State.raise_pending (c : ErrCode) : (s.raise c).pending = s.pending := rfl
@[simp] theorem State.raise_response (c : ErrCode) : (s.raise c).response = s.response := rfl

/-! ### `clearSticky` -/

@[simp] theorem State.clearSticky_minFreq : s.clearSticky.minFreq = s.minFreq := rfl
@[simp] theorem State.clearSticky_maxFreq : s.clearSticky.maxFreq = s.maxFreq := rfl
@[simp] theorem State.clearSticky_numBars : s.clearSticky.numBars = s.numBars := rfl
@[simp] theorem State.clearSticky_scheme : s.clearSticky.scheme = s.scheme := rfl
@[simp] theorem State.clearSticky_result : s.clearSticky.result = s.result := rfl
@[simp] theorem State.clearSticky_thrN : s.clearSticky.thrN = s.thrN := rfl
@[simp] theorem State.clearSticky_thrValid : s.clearSticky.thrValid = s.thrValid := rfl
@[simp] theorem State.clearSticky_thr : s.clearSticky.thr = s.thr := rfl
@[simp] theorem State.clearSticky_low : s.clearSticky.low = s.low := rfl
@[simp] theorem State.clearSticky_mid : s.clearSticky.mid = s.mid := rfl
@[simp] theorem State.clearSticky_high : s.clearSticky.high = s.high := rfl
@[simp] theorem State.clearSticky_out : s.clearSticky.out = s.out := rfl
@[simp] theorem State.clearSticky_outValid : s.clearSticky.outValid = s.outValid := rfl
@[simp] theorem State.clearSticky_outScheme : s.clearSticky.outScheme = s.outScheme := rfl
@[simp] theorem State.clearSticky_unreach : s.clearSticky.unreach = false := rfl
@[simp] theorem State.clearSticky_clampHit : s.clearSticky.clampHit = false := rfl
@[simp] theorem State.clearSticky_err : s.clearSticky.err = .noError := rfl
@[simp] theorem State.clearSticky_inflight : s.clearSticky.inflight = s.inflight := rfl
@[simp] theorem State.clearSticky_pending : s.clearSticky.pending = s.pending := rfl
@[simp] theorem State.clearSticky_response : s.clearSticky.response = s.response := rfl

/-! ### `finish` -/

@[simp] theorem State.finish_minFreq : s.finish.minFreq = s.minFreq := rfl
@[simp] theorem State.finish_maxFreq : s.finish.maxFreq = s.maxFreq := rfl
@[simp] theorem State.finish_numBars : s.finish.numBars = s.numBars := rfl
@[simp] theorem State.finish_scheme : s.finish.scheme = s.scheme := rfl
@[simp] theorem State.finish_result : s.finish.result = s.result := rfl
@[simp] theorem State.finish_thrN : s.finish.thrN = s.thrN := rfl
@[simp] theorem State.finish_thrValid : s.finish.thrValid = s.thrValid := rfl
@[simp] theorem State.finish_thr : s.finish.thr = s.thr := rfl
@[simp] theorem State.finish_low : s.finish.low = s.low := rfl
@[simp] theorem State.finish_mid : s.finish.mid = s.mid := rfl
@[simp] theorem State.finish_high : s.finish.high = s.high := rfl
@[simp] theorem State.finish_out : s.finish.out = s.out := rfl
@[simp] theorem State.finish_outValid : s.finish.outValid = s.outValid := rfl
@[simp] theorem State.finish_outScheme : s.finish.outScheme = s.outScheme := rfl
@[simp] theorem State.finish_unreach : s.finish.unreach = s.unreach := rfl
@[simp] theorem State.finish_clampHit : s.finish.clampHit = s.clampHit := rfl
@[simp] theorem State.finish_err : s.finish.err = s.err := rfl
@[simp] theorem State.finish_inflight : s.finish.inflight = none := rfl
@[simp] theorem State.finish_pending : s.finish.pending = s.pending := rfl
@[simp] theorem State.finish_response : s.finish.response = s.response := rfl

/-! ### `respond` -/

@[simp] theorem State.respond_minFreq (r : Response) : (s.respond r).minFreq = s.minFreq := rfl
@[simp] theorem State.respond_maxFreq (r : Response) : (s.respond r).maxFreq = s.maxFreq := rfl
@[simp] theorem State.respond_numBars (r : Response) : (s.respond r).numBars = s.numBars := rfl
@[simp] theorem State.respond_scheme (r : Response) : (s.respond r).scheme = s.scheme := rfl
@[simp] theorem State.respond_result (r : Response) : (s.respond r).result = s.result := rfl
@[simp] theorem State.respond_thrN (r : Response) : (s.respond r).thrN = s.thrN := rfl
@[simp] theorem State.respond_thrValid (r : Response) : (s.respond r).thrValid = s.thrValid := rfl
@[simp] theorem State.respond_thr (r : Response) : (s.respond r).thr = s.thr := rfl
@[simp] theorem State.respond_low (r : Response) : (s.respond r).low = s.low := rfl
@[simp] theorem State.respond_mid (r : Response) : (s.respond r).mid = s.mid := rfl
@[simp] theorem State.respond_high (r : Response) : (s.respond r).high = s.high := rfl
@[simp] theorem State.respond_out (r : Response) : (s.respond r).out = s.out := rfl
@[simp] theorem State.respond_outValid (r : Response) : (s.respond r).outValid = s.outValid := rfl
@[simp] theorem State.respond_outScheme (r : Response) : (s.respond r).outScheme = s.outScheme := rfl
@[simp] theorem State.respond_unreach (r : Response) : (s.respond r).unreach = s.unreach := rfl
@[simp] theorem State.respond_clampHit (r : Response) : (s.respond r).clampHit = s.clampHit := rfl
@[simp] theorem State.respond_err (r : Response) : (s.respond r).err = s.err := rfl
@[simp] theorem State.respond_inflight (r : Response) : (s.respond r).inflight = s.inflight := rfl
@[simp] theorem State.respond_pending (r : Response) : (s.respond r).pending = s.pending := rfl
@[simp] theorem State.respond_response (r : Response) : (s.respond r).response = some r := rfl

/-! ### `resetEvent` -/

@[simp] theorem State.resetEvent_minFreq : s.resetEvent.minFreq = State.reset.minFreq := rfl
@[simp] theorem State.resetEvent_maxFreq : s.resetEvent.maxFreq = State.reset.maxFreq := rfl
@[simp] theorem State.resetEvent_numBars : s.resetEvent.numBars = State.reset.numBars := rfl
@[simp] theorem State.resetEvent_scheme : s.resetEvent.scheme = State.reset.scheme := rfl
@[simp] theorem State.resetEvent_result : s.resetEvent.result = State.reset.result := rfl
@[simp] theorem State.resetEvent_thrN : s.resetEvent.thrN = State.reset.thrN := rfl
@[simp] theorem State.resetEvent_thrValid : s.resetEvent.thrValid = State.reset.thrValid := rfl
@[simp] theorem State.resetEvent_thr : s.resetEvent.thr = State.reset.thr := rfl
@[simp] theorem State.resetEvent_low : s.resetEvent.low = State.reset.low := rfl
@[simp] theorem State.resetEvent_mid : s.resetEvent.mid = State.reset.mid := rfl
@[simp] theorem State.resetEvent_high : s.resetEvent.high = State.reset.high := rfl
@[simp] theorem State.resetEvent_out : s.resetEvent.out = State.reset.out := rfl
@[simp] theorem State.resetEvent_outValid : s.resetEvent.outValid = State.reset.outValid := rfl
@[simp] theorem State.resetEvent_outScheme : s.resetEvent.outScheme = State.reset.outScheme := rfl
@[simp] theorem State.resetEvent_unreach : s.resetEvent.unreach = State.reset.unreach := rfl
@[simp] theorem State.resetEvent_clampHit : s.resetEvent.clampHit = State.reset.clampHit := rfl
@[simp] theorem State.resetEvent_err : s.resetEvent.err = State.reset.err := rfl
@[simp] theorem State.resetEvent_inflight : s.resetEvent.inflight = State.reset.inflight := rfl
@[simp] theorem State.resetEvent_pending : s.resetEvent.pending = s.pending := rfl
@[simp] theorem State.resetEvent_response : s.resetEvent.response = s.response := rfl

/-! ### `noteKinds` -/

@[simp] theorem State.noteKinds_minFreq (ks : List Kind) : (s.noteKinds ks).minFreq = s.minFreq := rfl
@[simp] theorem State.noteKinds_maxFreq (ks : List Kind) : (s.noteKinds ks).maxFreq = s.maxFreq := rfl
@[simp] theorem State.noteKinds_numBars (ks : List Kind) : (s.noteKinds ks).numBars = s.numBars := rfl
@[simp] theorem State.noteKinds_scheme (ks : List Kind) : (s.noteKinds ks).scheme = s.scheme := rfl
@[simp] theorem State.noteKinds_result (ks : List Kind) : (s.noteKinds ks).result = s.result := rfl
@[simp] theorem State.noteKinds_thrN (ks : List Kind) : (s.noteKinds ks).thrN = s.thrN := rfl
@[simp] theorem State.noteKinds_thrValid (ks : List Kind) : (s.noteKinds ks).thrValid = s.thrValid := rfl
@[simp] theorem State.noteKinds_thr (ks : List Kind) : (s.noteKinds ks).thr = s.thr := rfl
@[simp] theorem State.noteKinds_low (ks : List Kind) : (s.noteKinds ks).low = s.low := rfl
@[simp] theorem State.noteKinds_mid (ks : List Kind) : (s.noteKinds ks).mid = s.mid := rfl
@[simp] theorem State.noteKinds_high (ks : List Kind) : (s.noteKinds ks).high = s.high := rfl
@[simp] theorem State.noteKinds_out (ks : List Kind) : (s.noteKinds ks).out = s.out := rfl
@[simp] theorem State.noteKinds_outValid (ks : List Kind) : (s.noteKinds ks).outValid = s.outValid := rfl
@[simp] theorem State.noteKinds_outScheme (ks : List Kind) : (s.noteKinds ks).outScheme = s.outScheme := rfl
@[simp] theorem State.noteKinds_unreach (ks : List Kind) : (s.noteKinds ks).unreach = (s.unreach || decide (Kind.fallback ∈ ks)) := rfl
@[simp] theorem State.noteKinds_clampHit (ks : List Kind) : (s.noteKinds ks).clampHit = (s.clampHit || decide (Kind.clamp ∈ ks)) := rfl
@[simp] theorem State.noteKinds_err (ks : List Kind) : (s.noteKinds ks).err = s.err := rfl
@[simp] theorem State.noteKinds_inflight (ks : List Kind) : (s.noteKinds ks).inflight = s.inflight := rfl
@[simp] theorem State.noteKinds_pending (ks : List Kind) : (s.noteKinds ks).pending = s.pending := rfl
@[simp] theorem State.noteKinds_response (ks : List Kind) : (s.noteKinds ks).response = s.response := rfl

/-! ### `setWork` -/

@[simp] theorem State.setWork_minFreq (r : Range) (t : WorkTable) : (s.setWork r t).minFreq = s.minFreq := rfl
@[simp] theorem State.setWork_maxFreq (r : Range) (t : WorkTable) : (s.setWork r t).maxFreq = s.maxFreq := rfl
@[simp] theorem State.setWork_numBars (r : Range) (t : WorkTable) : (s.setWork r t).numBars = s.numBars := rfl
@[simp] theorem State.setWork_scheme (r : Range) (t : WorkTable) : (s.setWork r t).scheme = s.scheme := rfl
@[simp] theorem State.setWork_result (r : Range) (t : WorkTable) : (s.setWork r t).result = s.result := rfl
@[simp] theorem State.setWork_thrN (r : Range) (t : WorkTable) : (s.setWork r t).thrN = s.thrN := rfl
@[simp] theorem State.setWork_thrValid (r : Range) (t : WorkTable) : (s.setWork r t).thrValid = s.thrValid := rfl
@[simp] theorem State.setWork_thr (r : Range) (t : WorkTable) : (s.setWork r t).thr = s.thr := rfl
@[simp] theorem State.setWork_low (r : Range) (t : WorkTable) : (s.setWork r t).low = if r = .low then t else s.low := rfl
@[simp] theorem State.setWork_mid (r : Range) (t : WorkTable) : (s.setWork r t).mid = if r = .mid then t else s.mid := rfl
@[simp] theorem State.setWork_high (r : Range) (t : WorkTable) : (s.setWork r t).high = if r = .high then t else s.high := rfl
@[simp] theorem State.setWork_out (r : Range) (t : WorkTable) : (s.setWork r t).out = s.out := rfl
@[simp] theorem State.setWork_outValid (r : Range) (t : WorkTable) : (s.setWork r t).outValid = s.outValid := rfl
@[simp] theorem State.setWork_outScheme (r : Range) (t : WorkTable) : (s.setWork r t).outScheme = s.outScheme := rfl
@[simp] theorem State.setWork_unreach (r : Range) (t : WorkTable) : (s.setWork r t).unreach = s.unreach := rfl
@[simp] theorem State.setWork_clampHit (r : Range) (t : WorkTable) : (s.setWork r t).clampHit = s.clampHit := rfl
@[simp] theorem State.setWork_err (r : Range) (t : WorkTable) : (s.setWork r t).err = s.err := rfl
@[simp] theorem State.setWork_inflight (r : Range) (t : WorkTable) : (s.setWork r t).inflight = s.inflight := rfl
@[simp] theorem State.setWork_pending (r : Range) (t : WorkTable) : (s.setWork r t).pending = s.pending := rfl
@[simp] theorem State.setWork_response (r : Range) (t : WorkTable) : (s.setWork r t).response = s.response := rfl

/-! ### `writeThresholds` -/

@[simp] theorem State.writeThresholds_minFreq (a b n : Word) : (s.writeThresholds a b n).minFreq = s.minFreq := rfl
@[simp] theorem State.writeThresholds_maxFreq (a b n : Word) : (s.writeThresholds a b n).maxFreq = s.maxFreq := rfl
@[simp] theorem State.writeThresholds_numBars (a b n : Word) : (s.writeThresholds a b n).numBars = s.numBars := rfl
@[simp] theorem State.writeThresholds_scheme (a b n : Word) : (s.writeThresholds a b n).scheme = s.scheme := rfl
@[simp] theorem State.writeThresholds_result (a b n : Word) : (s.writeThresholds a b n).result = s.result := rfl
@[simp] theorem State.writeThresholds_thrN (a b n : Word) : (s.writeThresholds a b n).thrN = n := rfl
@[simp] theorem State.writeThresholds_thrValid (a b n : Word) : (s.writeThresholds a b n).thrValid = true := rfl
@[simp] theorem State.writeThresholds_thr (a b n : Word) : (s.writeThresholds a b n).thr = (List.range Config.thrEntries).map (thrEntry a.toNat b.toNat n.toNat) := rfl
@[simp] theorem State.writeThresholds_low (a b n : Word) : (s.writeThresholds a b n).low = s.low.invalidate := rfl
@[simp] theorem State.writeThresholds_mid (a b n : Word) : (s.writeThresholds a b n).mid = s.mid.invalidate := rfl
@[simp] theorem State.writeThresholds_high (a b n : Word) : (s.writeThresholds a b n).high = s.high.invalidate := rfl
@[simp] theorem State.writeThresholds_out (a b n : Word) : (s.writeThresholds a b n).out = s.out := rfl
@[simp] theorem State.writeThresholds_outValid (a b n : Word) : (s.writeThresholds a b n).outValid = s.outValid := rfl
@[simp] theorem State.writeThresholds_outScheme (a b n : Word) : (s.writeThresholds a b n).outScheme = s.outScheme := rfl
@[simp] theorem State.writeThresholds_unreach (a b n : Word) : (s.writeThresholds a b n).unreach = s.unreach := rfl
@[simp] theorem State.writeThresholds_clampHit (a b n : Word) : (s.writeThresholds a b n).clampHit = s.clampHit := rfl
@[simp] theorem State.writeThresholds_err (a b n : Word) : (s.writeThresholds a b n).err = s.err := rfl
@[simp] theorem State.writeThresholds_inflight (a b n : Word) : (s.writeThresholds a b n).inflight = s.inflight := rfl
@[simp] theorem State.writeThresholds_pending (a b n : Word) : (s.writeThresholds a b n).pending = s.pending := rfl
@[simp] theorem State.writeThresholds_response (a b n : Word) : (s.writeThresholds a b n).response = s.response := rfl

/-! ### `serialize` -/

@[simp] theorem State.serialize_minFreq (sch : Scheme) : (s.serialize sch).minFreq = s.minFreq := rfl
@[simp] theorem State.serialize_maxFreq (sch : Scheme) : (s.serialize sch).maxFreq = s.maxFreq := rfl
@[simp] theorem State.serialize_numBars (sch : Scheme) : (s.serialize sch).numBars = s.numBars := rfl
@[simp] theorem State.serialize_scheme (sch : Scheme) : (s.serialize sch).scheme = s.scheme := rfl
@[simp] theorem State.serialize_result (sch : Scheme) : (s.serialize sch).result = s.result := rfl
@[simp] theorem State.serialize_thrN (sch : Scheme) : (s.serialize sch).thrN = s.thrN := rfl
@[simp] theorem State.serialize_thrValid (sch : Scheme) : (s.serialize sch).thrValid = s.thrValid := rfl
@[simp] theorem State.serialize_thr (sch : Scheme) : (s.serialize sch).thr = s.thr := rfl
@[simp] theorem State.serialize_low (sch : Scheme) : (s.serialize sch).low = s.low := rfl
@[simp] theorem State.serialize_mid (sch : Scheme) : (s.serialize sch).mid = s.mid := rfl
@[simp] theorem State.serialize_high (sch : Scheme) : (s.serialize sch).high = s.high := rfl
@[simp] theorem State.serialize_out (sch : Scheme) : (s.serialize sch).out = Memory.ofBytes outBase (s.low.data ++ s.mid.data ++ s.high.data) := rfl
@[simp] theorem State.serialize_outValid (sch : Scheme) : (s.serialize sch).outValid = true := rfl
@[simp] theorem State.serialize_outScheme (sch : Scheme) : (s.serialize sch).outScheme = sch := rfl
@[simp] theorem State.serialize_unreach (sch : Scheme) : (s.serialize sch).unreach = s.unreach := rfl
@[simp] theorem State.serialize_clampHit (sch : Scheme) : (s.serialize sch).clampHit = s.clampHit := rfl
@[simp] theorem State.serialize_err (sch : Scheme) : (s.serialize sch).err = s.err := rfl
@[simp] theorem State.serialize_inflight (sch : Scheme) : (s.serialize sch).inflight = s.inflight := rfl
@[simp] theorem State.serialize_pending (sch : Scheme) : (s.serialize sch).pending = s.pending := rfl
@[simp] theorem State.serialize_response (sch : Scheme) : (s.serialize sch).response = s.response := rfl

/-! ### `buildTable` -/

@[simp] theorem State.buildTable_minFreq (sch : Scheme) (r : Range) : (s.buildTable sch r).minFreq = s.minFreq := rfl
@[simp] theorem State.buildTable_maxFreq (sch : Scheme) (r : Range) : (s.buildTable sch r).maxFreq = s.maxFreq := rfl
@[simp] theorem State.buildTable_numBars (sch : Scheme) (r : Range) : (s.buildTable sch r).numBars = s.numBars := rfl
@[simp] theorem State.buildTable_scheme (sch : Scheme) (r : Range) : (s.buildTable sch r).scheme = s.scheme := rfl
@[simp] theorem State.buildTable_result (sch : Scheme) (r : Range) : (s.buildTable sch r).result = s.result := rfl
@[simp] theorem State.buildTable_thrN (sch : Scheme) (r : Range) : (s.buildTable sch r).thrN = s.thrN := rfl
@[simp] theorem State.buildTable_thrValid (sch : Scheme) (r : Range) : (s.buildTable sch r).thrValid = s.thrValid := rfl
@[simp] theorem State.buildTable_thr (sch : Scheme) (r : Range) : (s.buildTable sch r).thr = s.thr := rfl
@[simp] theorem State.buildTable_low (sch : Scheme) (r : Range) : (s.buildTable sch r).low = if r = .low then ⟨(s.bandEntries sch r).map entryByte, true, sch⟩ else s.low := rfl
@[simp] theorem State.buildTable_mid (sch : Scheme) (r : Range) : (s.buildTable sch r).mid = if r = .mid then ⟨(s.bandEntries sch r).map entryByte, true, sch⟩ else s.mid := rfl
@[simp] theorem State.buildTable_high (sch : Scheme) (r : Range) : (s.buildTable sch r).high = if r = .high then ⟨(s.bandEntries sch r).map entryByte, true, sch⟩ else s.high := rfl
@[simp] theorem State.buildTable_out (sch : Scheme) (r : Range) : (s.buildTable sch r).out = s.out := rfl
@[simp] theorem State.buildTable_outValid (sch : Scheme) (r : Range) : (s.buildTable sch r).outValid = s.outValid := rfl
@[simp] theorem State.buildTable_outScheme (sch : Scheme) (r : Range) : (s.buildTable sch r).outScheme = s.outScheme := rfl
@[simp] theorem State.buildTable_unreach (sch : Scheme) (r : Range) : (s.buildTable sch r).unreach = (s.unreach || decide (Kind.fallback ∈ entryKinds (s.bandEntries sch r))) := rfl
@[simp] theorem State.buildTable_clampHit (sch : Scheme) (r : Range) : (s.buildTable sch r).clampHit = (s.clampHit || decide (Kind.clamp ∈ entryKinds (s.bandEntries sch r))) := rfl
@[simp] theorem State.buildTable_err (sch : Scheme) (r : Range) : (s.buildTable sch r).err = s.err := rfl
@[simp] theorem State.buildTable_inflight (sch : Scheme) (r : Range) : (s.buildTable sch r).inflight = s.inflight := rfl
@[simp] theorem State.buildTable_pending (sch : Scheme) (r : Range) : (s.buildTable sch r).pending = s.pending := rfl
@[simp] theorem State.buildTable_response (sch : Scheme) (r : Range) : (s.buildTable sch r).response = s.response := rfl

/-! ### `acceptLong`: only ERR and INFLIGHT can change -/

@[simp] theorem State.acceptLong_minFreq (rec : InFlight) (cs : List (ErrCode × Bool)) : (s.acceptLong rec cs).minFreq = s.minFreq := by
  unfold State.acceptLong; split <;> rfl
@[simp] theorem State.acceptLong_maxFreq (rec : InFlight) (cs : List (ErrCode × Bool)) : (s.acceptLong rec cs).maxFreq = s.maxFreq := by
  unfold State.acceptLong; split <;> rfl
@[simp] theorem State.acceptLong_numBars (rec : InFlight) (cs : List (ErrCode × Bool)) : (s.acceptLong rec cs).numBars = s.numBars := by
  unfold State.acceptLong; split <;> rfl
@[simp] theorem State.acceptLong_scheme (rec : InFlight) (cs : List (ErrCode × Bool)) : (s.acceptLong rec cs).scheme = s.scheme := by
  unfold State.acceptLong; split <;> rfl
@[simp] theorem State.acceptLong_result (rec : InFlight) (cs : List (ErrCode × Bool)) : (s.acceptLong rec cs).result = s.result := by
  unfold State.acceptLong; split <;> rfl
@[simp] theorem State.acceptLong_thrN (rec : InFlight) (cs : List (ErrCode × Bool)) : (s.acceptLong rec cs).thrN = s.thrN := by
  unfold State.acceptLong; split <;> rfl
@[simp] theorem State.acceptLong_thrValid (rec : InFlight) (cs : List (ErrCode × Bool)) : (s.acceptLong rec cs).thrValid = s.thrValid := by
  unfold State.acceptLong; split <;> rfl
@[simp] theorem State.acceptLong_thr (rec : InFlight) (cs : List (ErrCode × Bool)) : (s.acceptLong rec cs).thr = s.thr := by
  unfold State.acceptLong; split <;> rfl
@[simp] theorem State.acceptLong_low (rec : InFlight) (cs : List (ErrCode × Bool)) : (s.acceptLong rec cs).low = s.low := by
  unfold State.acceptLong; split <;> rfl
@[simp] theorem State.acceptLong_mid (rec : InFlight) (cs : List (ErrCode × Bool)) : (s.acceptLong rec cs).mid = s.mid := by
  unfold State.acceptLong; split <;> rfl
@[simp] theorem State.acceptLong_high (rec : InFlight) (cs : List (ErrCode × Bool)) : (s.acceptLong rec cs).high = s.high := by
  unfold State.acceptLong; split <;> rfl
@[simp] theorem State.acceptLong_out (rec : InFlight) (cs : List (ErrCode × Bool)) : (s.acceptLong rec cs).out = s.out := by
  unfold State.acceptLong; split <;> rfl
@[simp] theorem State.acceptLong_outValid (rec : InFlight) (cs : List (ErrCode × Bool)) : (s.acceptLong rec cs).outValid = s.outValid := by
  unfold State.acceptLong; split <;> rfl
@[simp] theorem State.acceptLong_outScheme (rec : InFlight) (cs : List (ErrCode × Bool)) : (s.acceptLong rec cs).outScheme = s.outScheme := by
  unfold State.acceptLong; split <;> rfl
@[simp] theorem State.acceptLong_unreach (rec : InFlight) (cs : List (ErrCode × Bool)) : (s.acceptLong rec cs).unreach = s.unreach := by
  unfold State.acceptLong; split <;> rfl
@[simp] theorem State.acceptLong_clampHit (rec : InFlight) (cs : List (ErrCode × Bool)) : (s.acceptLong rec cs).clampHit = s.clampHit := by
  unfold State.acceptLong; split <;> rfl
@[simp] theorem State.acceptLong_pending (rec : InFlight) (cs : List (ErrCode × Bool)) : (s.acceptLong rec cs).pending = s.pending := by
  unfold State.acceptLong; split <;> rfl
@[simp] theorem State.acceptLong_response (rec : InFlight) (cs : List (ErrCode × Bool)) : (s.acceptLong rec cs).response = s.response := by
  unfold State.acceptLong; split <;> rfl

/-! ### `writeRegister`: only the four configuration registers can change -/

@[simp] theorem State.writeRegister_result (a : Nat) (v : Word) : (s.writeRegister a v).result = s.result := by
  unfold State.writeRegister; split_ifs <;> rfl
@[simp] theorem State.writeRegister_thrN (a : Nat) (v : Word) : (s.writeRegister a v).thrN = s.thrN := by
  unfold State.writeRegister; split_ifs <;> rfl
@[simp] theorem State.writeRegister_thrValid (a : Nat) (v : Word) : (s.writeRegister a v).thrValid = s.thrValid := by
  unfold State.writeRegister; split_ifs <;> rfl
@[simp] theorem State.writeRegister_thr (a : Nat) (v : Word) : (s.writeRegister a v).thr = s.thr := by
  unfold State.writeRegister; split_ifs <;> rfl
@[simp] theorem State.writeRegister_low (a : Nat) (v : Word) : (s.writeRegister a v).low = s.low := by
  unfold State.writeRegister; split_ifs <;> rfl
@[simp] theorem State.writeRegister_mid (a : Nat) (v : Word) : (s.writeRegister a v).mid = s.mid := by
  unfold State.writeRegister; split_ifs <;> rfl
@[simp] theorem State.writeRegister_high (a : Nat) (v : Word) : (s.writeRegister a v).high = s.high := by
  unfold State.writeRegister; split_ifs <;> rfl
@[simp] theorem State.writeRegister_out (a : Nat) (v : Word) : (s.writeRegister a v).out = s.out := by
  unfold State.writeRegister; split_ifs <;> rfl
@[simp] theorem State.writeRegister_outValid (a : Nat) (v : Word) : (s.writeRegister a v).outValid = s.outValid := by
  unfold State.writeRegister; split_ifs <;> rfl
@[simp] theorem State.writeRegister_outScheme (a : Nat) (v : Word) : (s.writeRegister a v).outScheme = s.outScheme := by
  unfold State.writeRegister; split_ifs <;> rfl
@[simp] theorem State.writeRegister_unreach (a : Nat) (v : Word) : (s.writeRegister a v).unreach = s.unreach := by
  unfold State.writeRegister; split_ifs <;> rfl
@[simp] theorem State.writeRegister_clampHit (a : Nat) (v : Word) : (s.writeRegister a v).clampHit = s.clampHit := by
  unfold State.writeRegister; split_ifs <;> rfl
@[simp] theorem State.writeRegister_err (a : Nat) (v : Word) : (s.writeRegister a v).err = s.err := by
  unfold State.writeRegister; split_ifs <;> rfl
@[simp] theorem State.writeRegister_inflight (a : Nat) (v : Word) : (s.writeRegister a v).inflight = s.inflight := by
  unfold State.writeRegister; split_ifs <;> rfl
@[simp] theorem State.writeRegister_pending (a : Nat) (v : Word) : (s.writeRegister a v).pending = s.pending := by
  unfold State.writeRegister; split_ifs <;> rfl
@[simp] theorem State.writeRegister_response (a : Nat) (v : Word) : (s.writeRegister a v).response = s.response := by
  unfold State.writeRegister; split_ifs <;> rfl

end Sys2Proof.Machine
end

