-- ==== Sys2Proof/Laws/Memory.lean ====
section
/-! SUPPORT. The byte memory: reads of a written block, and the canonical form. -/

namespace Sys2Proof.Machine

@[simp] theorem Memory.read_nil (x : Nat) : Memory.read [] x = Memory.unlisted := rfl

theorem Memory.read_cons (c : Host.Cell) (m : Memory) (x : Nat) :
    Memory.read (c :: m) x = if c.1 = x then c.2 else Memory.read m x := rfl

@[simp] theorem Memory.ofBytes_nil (a : Nat) : Memory.ofBytes a [] = [] := rfl

theorem Memory.ofBytes_cons (a : Nat) (b : Byte) (bs : List Byte) :
    Memory.ofBytes a (b :: bs) =
      if b = Memory.unlisted then Memory.ofBytes (a + 1) bs else (a, b) :: Memory.ofBytes (a + 1) bs := rfl

/-- Every cell of a written block lies in the block. -/
theorem Memory.mem_ofBytes_addr {c : Host.Cell} :
    ∀ {a : Nat} {bs : List Byte}, c ∈ Memory.ofBytes a bs → a ≤ c.1 ∧ c.1 < a + bs.length
  | _, [], h => by simp at h
  | a, b :: bs, h => by
    rw [ofBytes_cons] at h
    split at h
    · have := mem_ofBytes_addr h; simp only [List.length_cons]; omega
    · rcases List.mem_cons.mp h with rfl | h
      · simp only [List.length_cons]; omega
      · have := mem_ofBytes_addr h; simp only [List.length_cons]; omega

/-- No cell of a written block holds the unlisted value. -/
theorem Memory.mem_ofBytes_ne {c : Host.Cell} :
    ∀ {a : Nat} {bs : List Byte}, c ∈ Memory.ofBytes a bs → c.2 ≠ Memory.unlisted
  | _, [], h => by simp at h
  | a, b :: bs, h => by
    rw [ofBytes_cons] at h
    split at h
    · exact mem_ofBytes_ne h
    · rcases List.mem_cons.mp h with rfl | h
      · assumption
      · exact mem_ofBytes_ne h

theorem Memory.pairwise_ofBytes :
    ∀ (a : Nat) (bs : List Byte), (Memory.ofBytes a bs).Pairwise (fun c d => c.1 < d.1)
  | _, [] => List.Pairwise.nil
  | a, b :: bs => by
    rw [ofBytes_cons]
    split
    · exact pairwise_ofBytes (a + 1) bs
    · refine List.Pairwise.cons (fun d hd => ?_) (pairwise_ofBytes (a + 1) bs)
      have := mem_ofBytes_addr hd
      show a < d.1
      omega

/-- A written block is in canonical form. -/
theorem Memory.wf_ofBytes (a : Nat) (bs : List Byte) : (Memory.ofBytes a bs).wf :=
  ⟨pairwise_ofBytes a bs, fun _ h => mem_ofBytes_ne h⟩

/-- The memory after reset is in canonical form. -/
theorem Memory.wf_reset : State.reset.out.wf := by decide

/-- Serializing leaves OUT in canonical form, whatever it was before: the only operation that writes OUT beside the reset event. -/
theorem State.serialize_out_wf (s : State) (sch : Scheme) : (s.serialize sch).out.wf :=
  Memory.wf_ofBytes _ _

theorem State.resetEvent_out_wf (s : State) : s.resetEvent.out.wf := Memory.wf_reset

/-- An address below every cell reads as unlisted. -/
theorem Memory.read_of_forall_ne {m : Memory} {x : Nat} (h : ∀ c ∈ m, c.1 ≠ x) :
    m.read x = Memory.unlisted := by
  induction m with
  | nil => rfl
  | cons c m ih =>
    rw [read_cons, if_neg (h c List.mem_cons_self)]
    exact ih fun d hd => h d (List.mem_cons_of_mem _ hd)

/-- Outside a written block everything reads as unlisted. -/
theorem Memory.read_ofBytes_outside {a x : Nat} {bs : List Byte} (h : x < a ∨ a + bs.length ≤ x) :
    (Memory.ofBytes a bs).read x = Memory.unlisted :=
  read_of_forall_ne fun c hc => by have := mem_ofBytes_addr hc; omega

/-- Inside a written block a read gives the byte written there. -/
theorem Memory.read_ofBytes_inside :
    ∀ (a : Nat) (bs : List Byte) (k : Nat), k < bs.length →
      (Memory.ofBytes a bs).read (a + k) = bs.getD k Memory.unlisted
  | a, b :: bs, 0, _ => by
    rw [ofBytes_cons]
    split
    · rename_i h
      rw [read_ofBytes_outside (Or.inl (by omega))]; simp [h]
    · simp [read_cons]
  | a, b :: bs, k + 1, h => by
    have hk : k < bs.length := by simpa using h
    have ih := read_ofBytes_inside (a + 1) bs k hk
    rw [show a + 1 + k = a + (k + 1) by omega] at ih
    rw [ofBytes_cons, List.getD_cons_succ]
    split
    · exact ih
    · rw [read_cons, if_neg (by show ¬ a = a + (k + 1); omega)]; exact ih

/-- Two memories in canonical form that read alike are equal. -/
theorem Memory.ext_of_wf : ∀ {m m' : Memory}, m.wf → m'.wf → (∀ x, m.read x = m'.read x) → m = m'
  | [], [], _, _, _ => rfl
  | [], d :: m', _, h', hr => by
    have := hr d.1
    rw [read_nil, read_cons, if_pos rfl] at this
    exact absurd this.symm (h'.2 d List.mem_cons_self)
  | c :: m, [], h, _, hr => by
    have := hr c.1
    rw [read_nil, read_cons, if_pos rfl] at this
    exact absurd this (h.2 c List.mem_cons_self)
  | c :: m, d :: m', h, h', hr => by
    have hp := List.pairwise_cons.mp h.1
    have hp' := List.pairwise_cons.mp h'.1
    have hkey : c.1 = d.1 := by
      rcases Nat.lt_trichotomy c.1 d.1 with hlt | heq | hgt
      · have := hr c.1
        rw [read_cons, if_pos rfl, read_of_forall_ne (m := d :: m')
          (fun e he => by
            rcases List.mem_cons.mp he with rfl | he
            · omega
            · have := hp'.1 e he; omega)] at this
        exact absurd this (h.2 c List.mem_cons_self)
      · exact heq
      · have := hr d.1
        rw [read_cons (c := d), if_pos rfl, read_of_forall_ne (m := c :: m)
          (fun e he => by
            rcases List.mem_cons.mp he with rfl | he
            · omega
            · have := hp.1 e he; omega)] at this
        exact absurd this.symm (h'.2 d List.mem_cons_self)
    have hval : c.2 = d.2 := by
      have := hr c.1
      rwa [read_cons, if_pos rfl, read_cons, if_pos hkey.symm] at this
    have hrest : m = m' := by
      refine ext_of_wf ⟨hp.2, fun e he => h.2 e (List.mem_cons_of_mem _ he)⟩
        ⟨hp'.2, fun e he => h'.2 e (List.mem_cons_of_mem _ he)⟩ fun x => ?_
      have hx := hr x
      rw [read_cons, read_cons] at hx
      by_cases hc : c.1 = x
      · rw [read_of_forall_ne (fun e he => by have := hp.1 e he; omega),
          read_of_forall_ne (fun e he => by have := hp'.1 e he; omega)]
      · rwa [if_neg hc, if_neg (by omega)] at hx
    rw [hrest, Prod.ext hkey hval]

end Sys2Proof.Machine
end

