-- ==== Sys2Proof/Laws/Ops.lean ====
section
/-! SUPPORT. One lemma per shared operation that says once everything it can do; proofs cite these and do not unfold the operations. -/

namespace Sys2Proof.Machine

/-! ### Checks and acceptance -/

theorem firstFailing_none_iff (cs : List (ErrCode × Bool)) :
    firstFailing cs = none ↔ ∀ d ∈ cs, d.2 = false := by
  induction cs with
  | nil => simp [firstFailing]
  | cons d cs ih =>
    obtain ⟨c, bad⟩ := d
    cases bad <;> simp [firstFailing, ih]

/-- The code found is the code of a failing check before which none fails. -/
theorem firstFailing_some {cs : List (ErrCode × Bool)} {c : ErrCode} (h : firstFailing cs = some c) :
    ∃ before after, cs = before ++ (c, true) :: after ∧ ∀ d ∈ before, d.2 = false := by
  induction cs with
  | nil => simp [firstFailing] at h
  | cons d cs ih =>
    obtain ⟨e, bad⟩ := d
    cases bad with
    | true =>
      simp only [firstFailing, if_true, Option.some.injEq] at h
      exact ⟨[], cs, by simp [h], by simp⟩
    | false =>
      obtain ⟨b, a, rfl, hb⟩ := ih (by simpa [firstFailing] using h)
      exact ⟨(e, false) :: b, a, rfl, by simpa using hb⟩

theorem State.acceptLong_of_busy {s : State} (h : s.inflight.isSome = true) (rec : InFlight)
    (cs : List (ErrCode × Bool)) : s.acceptLong rec cs = s.raise .cmdBusy := by
  simp [acceptLong, firstFailing, h]

theorem State.acceptLong_of_failing {s : State} {cs : List (ErrCode × Bool)} {c : ErrCode}
    (hi : s.inflight = none) (h : firstFailing cs = some c) (rec : InFlight) :
    s.acceptLong rec cs = s.raise c := by
  simp [acceptLong, firstFailing, hi, h]

theorem State.acceptLong_of_passing {s : State} {cs : List (ErrCode × Bool)}
    (hi : s.inflight = none) (h : firstFailing cs = none) (rec : InFlight) :
    s.acceptLong rec cs = { s with inflight := some rec } := by
  simp [acceptLong, firstFailing, hi, h]

/-- An acceptance rejects, because a command is in flight or a check of the command fails, and then only records an error; or it puts
the record in flight and does nothing else. -/
theorem State.acceptLong_cases (s : State) (rec : InFlight) (cs : List (ErrCode × Bool)) :
    (s.inflight.isSome = true ∧ s.acceptLong rec cs = s.raise .cmdBusy) ∨
    (s.inflight = none ∧ ∃ c, firstFailing cs = some c ∧ s.acceptLong rec cs = s.raise c) ∨
    (s.inflight = none ∧ firstFailing cs = none ∧ s.acceptLong rec cs = { s with inflight := some rec }) := by
  rcases hi : s.inflight with _ | c
  · rcases hf : firstFailing cs with _ | c
    · exact .inr (.inr ⟨rfl, rfl, acceptLong_of_passing hi hf rec⟩)
    · exact .inr (.inl ⟨rfl, c, rfl, acceptLong_of_failing hi hf rec⟩)
  · exact .inl ⟨rfl, acceptLong_of_busy (by simp [hi]) rec cs⟩

/-! ### The engine -/

theorem State.engineTurn_idle {s : State} (h : s.inflight = none) : s.engineTurn = s := by
  simp [engineTurn, h]

theorem State.engineTurn_flight {s : State} {c : InFlight} (h : s.inflight = some c) :
    s.engineTurn = completeRecord c s := by
  simp [engineTurn, h]

/-- The engine's turn is nothing, or one of the six completions. -/
theorem State.engineTurn_cases (s : State) :
    (s.inflight = none ∧ s.engineTurn = s) ∨
    ∃ c, s.inflight = some c ∧
      ((c.op = .genThr ∧ s.engineTurn = (s.writeThresholds c.min c.max c.n).finish) ∨
       (c.op = .build ∧ s.engineTurn = (s.buildTable (schemeOfWord c.scheme) c.range).finish) ∨
       (c.op = .commit ∧ s.engineTurn = (s.serialize s.low.scheme).finish) ∨
       (c.op = .run ∧ s.engineTurn =
          (((s.writeThresholds c.min c.max c.n).buildAll (schemeOfWord c.scheme)).serialize (schemeOfWord c.scheme)).finish) ∨
       (c.op = .resolve ∧ s.engineTurn = completeResolve c s) ∨
       (c.op = .qfreq ∧ s.engineTurn = completeQfreq c s)) := by
  rcases h : s.inflight with _ | c
  · exact .inl ⟨rfl, engineTurn_idle h⟩
  · refine .inr ⟨c, rfl, ?_⟩
    rw [engineTurn_flight h]
    obtain ⟨op, range, arg, min, max, n, scheme⟩ := c
    cases op <;> simp [completeRecord, completeGenThr, completeBuild, completeCommit, completeRun]

/-! ### Tables -/

/-- The entries a WriteThresholds leaves. -/
theorem State.thrAt_writeThresholds (s : State) (a b n : Word) {i : Nat} (h : i < Config.thrEntries) :
    (s.writeThresholds a b n).thrAt i = thrEntry a.toNat b.toNat n.toNat i := by
  simp [State.thrAt, List.getD, h]

theorem State.thr_length_writeThresholds (s : State) (a b n : Word) :
    (s.writeThresholds a b n).thr.length = Config.thrEntries := by simp

theorem State.bandEntries_length (s : State) (sch : Scheme) (r : Range) :
    (s.bandEntries sch r).length = Config.bandEntries := by simp [bandEntries]

/-- The working table that BuildTable leaves for its range. -/
theorem State.work_buildTable_self (s : State) (sch : Scheme) (r : Range) :
    (s.buildTable sch r).work r = ⟨(s.bandEntries sch r).map entryByte, true, sch⟩ := by
  cases r <;> rfl

/-- BuildTable leaves the other ranges' working tables alone. -/
theorem State.work_buildTable_other (s : State) (sch : Scheme) {r r' : Range} (h : r' ≠ r) :
    (s.buildTable sch r).work r' = s.work r' := by
  cases r <;> cases r' <;> first | rfl | exact absurd rfl h

/-- BuildTable reads the thresholds and THR_N and nothing else of the state. -/
theorem State.bandEntries_congr {s t : State} (h : s.thr = t.thr) (hn : s.thrN = t.thrN) (sch : Scheme)
    (r : Range) : s.bandEntries sch r = t.bandEntries sch r := by
  have : s.bandEntry sch r = t.bandEntry sch r := by
    funext idx; simp [bandEntry, h, hn]
  simp [bandEntries, this]

theorem resolve_of_scan {table : List Half} {n f b : Nat} (h : scan f 0 (table.take (n + 1)) = some b)
    (clamp : Bool) : resolve table n f clamp = (b, .scan) := by
  simp [resolve, h]

/-- A resolution is a scan hit, a clamp to the last bar, or the fallback to bar 0. -/
theorem resolve_cases (table : List Half) (n f : Nat) (clamp : Bool) :
    (∃ b, scan f 0 (table.take (n + 1)) = some b ∧ resolve table n f clamp = (b, .scan)) ∨
    (scan f 0 (table.take (n + 1)) = none ∧ clamp = true ∧ (table.getD n 0#16).toNat ≤ f ∧
      resolve table n f clamp = (n - 1, .clamp)) ∨
    (scan f 0 (table.take (n + 1)) = none ∧ ¬ (clamp = true ∧ (table.getD n 0#16).toNat ≤ f) ∧
      resolve table n f clamp = (0, .fallback)) := by
  rcases h : scan f 0 (table.take (n + 1)) with _ | b
  · by_cases hc : clamp = true ∧ (table.getD n 0#16).toNat ≤ f
    · exact .inr (.inl ⟨rfl, hc.1, hc.2, by simp only [resolve, h, hc, and_self, if_true]⟩)
    · exact .inr (.inr ⟨rfl, hc, by simp only [resolve, h, if_neg hc]⟩)
  · exact .inl ⟨b, rfl, resolve_of_scan h clamp⟩

/-! ### Transactions and steps -/

@[simp] theorem mapNext_next (f : State → State) (s : State) : mapNext f (.next s) = .next (f s) := rfl

theorem State.onCmdWrite_ok {s : State} {w : Word} {i : Instr} (h : decode w = .ok i) :
    s.onCmdWrite w = exec i s := by simp [onCmdWrite, h]

theorem State.onCmdWrite_error {s : State} {w : Word} {e : DecodeError} (h : decode w = .error e) :
    s.onCmdWrite w = .next (s.raise .cmdIllegal) := by simp [onCmdWrite, h]

/-- Every meaning answers a next state: a long command the state after its acceptance, an immediate one its effect. -/
theorem exec_cases (i : Instr) (s : State) :
    (∃ op r arg cs, exec i s = .next (s.acceptLong (s.snapshot op r arg) cs)) ∨
    (i = .nop ∧ exec i s = .next s) ∨
    (i = .clrerr ∧ exec i s = .next s.clearSticky) ∨
    (i = .sreset ∧ s.inflight.isSome = true ∧ exec i s = .next (s.raise .cmdBusy)) ∨
    (i = .sreset ∧ s.inflight = none ∧ exec i s = .next s.resetEvent) := by
  cases i with
  | nop => exact .inr (.inl ⟨rfl, rfl⟩)
  | clrerr => exact .inr (.inr (.inl ⟨rfl, rfl⟩))
  | sreset =>
    rcases h : s.inflight with _ | c
    · exact .inr (.inr (.inr (.inr ⟨rfl, rfl, by simp [exec, execSreset, h]⟩)))
    · exact .inr (.inr (.inr (.inl ⟨rfl, rfl, by simp [exec, execSreset, h]⟩)))
  | genThr => exact .inl ⟨_, _, _, _, rfl⟩
  | build r => exact .inl ⟨_, _, _, _, rfl⟩
  | commit => exact .inl ⟨_, _, _, _, rfl⟩
  | run => exact .inl ⟨_, _, _, _, rfl⟩
  | resolve r f => exact .inl ⟨_, _, _, _, rfl⟩
  | qfreq r idx => exact .inl ⟨_, _, _, _, rfl⟩

/-- What a transaction can do: an illegal one records BUS_ACCESS, a read only answers, a CMD write records CMD_ILLEGAL or executes a
command, another write goes to the registers. -/
theorem State.transact_cases (s : State) (t : Transaction) :
    (t.legal = false ∧ s.transact t = .next ((s.raise .busAccess).respond t.errorResponse)) ∨
    (t.legal = true ∧ ∃ a w, t = .read a w ∧ s.transact t = .next (s.respond (.okay (some (s.readData t))))) ∨
    (t.legal = true ∧ ∃ a w v e, t = .write a w v ∧ a.toNat = addrCmd ∧ decode v = .error e ∧
      s.transact t = .next ((s.raise .cmdIllegal).respond (.okay none))) ∨
    (t.legal = true ∧ ∃ a w v i, t = .write a w v ∧ a.toNat = addrCmd ∧ decode v = .ok i ∧
      s.transact t = mapNext (fun u => u.respond (.okay none)) (exec i s)) ∨
    (t.legal = true ∧ ∃ a w v, t = .write a w v ∧ a.toNat ≠ addrCmd ∧
      s.transact t = .next ((s.writeRegister a.toNat v).respond (.okay none))) := by
  rcases hl : t.legal with _ | _
  · exact .inl ⟨rfl, by simp [transact, hl]⟩
  · cases t with
    | read a w => exact .inr (.inl ⟨rfl, a, w, rfl, by simp [transact, hl, legalTransact]⟩)
    | write a w v =>
      by_cases ha : a.toNat = addrCmd
      · rcases hd : decode v with e | i
        · exact .inr (.inr (.inl ⟨rfl, a, w, v, e, rfl, ha, hd, by
            simp [transact, hl, legalTransact, ha, onCmdWrite_error hd]⟩))
        · exact .inr (.inr (.inr (.inl ⟨rfl, a, w, v, i, rfl, ha, hd, by
            simp [transact, hl, legalTransact, ha, onCmdWrite_ok hd]⟩)))
      · exact .inr (.inr (.inr (.inr ⟨rfl, a, w, v, rfl, ha, by simp [transact, hl, legalTransact, ha]⟩)))

theorem step_none {s : State} (h : s.pending = []) : step s = .next s.engineTurn := by simp [step, h]

theorem step_engine {s : State} {rest : List Event} (h : s.pending = .engine :: rest) :
    step s = .next { s with pending := rest }.engineTurn := by simp [step, h]

theorem step_reset {s : State} {rest : List Event} (h : s.pending = .reset :: rest) :
    step s = .next { s with pending := rest }.resetEvent := by simp [step, h]

theorem step_bus {s : State} {t : Transaction} {rest : List Event} (h : s.pending = .bus t :: rest) :
    step s = { s with pending := rest }.transact t := by simp [step, h]

/-- What a step can be. -/
theorem step_cases (s : State) :
    (s.pending = [] ∧ step s = .next s.engineTurn) ∨
    (∃ rest, s.pending = .engine :: rest ∧ step s = .next { s with pending := rest }.engineTurn) ∨
    (∃ rest, s.pending = .reset :: rest ∧ step s = .next { s with pending := rest }.resetEvent) ∨
    (∃ t rest, s.pending = .bus t :: rest ∧ step s = { s with pending := rest }.transact t) := by
  rcases h : s.pending with _ | ⟨e, rest⟩
  · exact .inl ⟨rfl, step_none h⟩
  · cases e with
    | bus t => exact .inr (.inr (.inr ⟨t, rest, rfl, step_bus h⟩))
    | engine => exact .inr (.inl ⟨rest, rfl, step_engine h⟩)
    | reset => exact .inr (.inr (.inl ⟨rest, rfl, step_reset h⟩))

/-! ### Runs of the machine behind the host's interface -/

/-- A run of any machine starts with one step. -/
theorem coreRun_succ (M : Host.Core) {s t : M.State} (h : M.step s = .next t) (k : Nat) :
    M.run (k + 1) s = M.run k t := by
  simp only [Host.Core.run, h]

/-- A run of any machine goes on from where a shorter one ends. -/
theorem coreRun_add (M : Host.Core) {m : Nat} {s t : M.State} (h : M.run m s = .next t) (k : Nat) :
    M.run (m + k) s = M.run k t := by
  induction m generalizing s with
  | zero => cases h; rw [Nat.zero_add]
  | succ m ih =>
    rw [Nat.succ_add]
    simp only [Host.Core.run] at h ⊢
    cases hs : M.step s <;> simp only [hs] at h ⊢
    · exact ih h
    · cases h
    · cases h

theorem run_zero (s : State) : Host.Core.run Sys2Proof.core 0 s = .next s := rfl

theorem run_succ {s t : State} (h : step s = .next t) (k : Nat) :
    Host.Core.run Sys2Proof.core (k + 1) s = Host.Core.run Sys2Proof.core k t :=
  coreRun_succ Sys2Proof.core h k

theorem run_add {m : Nat} {s t : State} (h : Host.Core.run Sys2Proof.core m s = .next t) (k : Nat) :
    Host.Core.run Sys2Proof.core (m + k) s = Host.Core.run Sys2Proof.core k t :=
  coreRun_add Sys2Proof.core h k

end Sys2Proof.Machine
end

