-- ==== Sys2Proof/Laws/PerInstr.lean ====
section
/-! SUPPORT. Statements made once per command, about the command as syntax. -/

namespace Sys2Proof.Laws

/-! ### The opcode field of each command's word is its row's OP (spec 30_encoding.md R71) -/

namespace EncodedOpcode

/-- The OP value of the command's row in R71. -/
def opOf : Instr → BitVec 4
  | .nop => 0x0#4
  | .genThr => 0x1#4
  | .build _ => 0x2#4
  | .commit => 0x3#4
  | .run => 0x4#4
  | .resolve _ _ => 0x5#4
  | .qfreq _ _ => 0x6#4
  | .clrerr => 0x7#4
  | .sreset => 0x8#4

/-- The encoded word carries the row's OP, and its reserved field RSV is 0 (R70). -/
def Statement (i : Instr) : Prop := opField (encode i) = opOf i ∧ rsvField (encode i) = 0#10

theorem field_packWord (op : BitVec 4) (range : BitVec 2) (arg : Half) :
    opField (packWord op range arg) = op ∧ rsvField (packWord op range arg) = 0#10 := by
  constructor <;> ext k hk
  · have h16 : k < 16 := by omega
    simp [opField, packWord, hk, h16]
    omega
  · have h4 : ¬ 6 + k < 4 := by omega
    have hr : range.getLsbD (6 + k - 4) = false := BitVec.getLsbD_of_ge _ _ (by omega)
    have ho : op.getLsbD (6 + k) = false := BitVec.getLsbD_of_ge _ _ (by omega)
    have h16 : 6 + k < 16 := by omega
    simp [rsvField, packWord, hr, ho, h16]

theorem nop : Statement .nop := field_packWord _ _ _
theorem genThr : Statement .genThr := field_packWord _ _ _
theorem build (r : Range) : Statement (.build r) := field_packWord _ _ _
theorem commit : Statement .commit := field_packWord _ _ _
theorem run : Statement .run := field_packWord _ _ _
theorem resolve (r : Range) (f : Half) : Statement (.resolve r f) := field_packWord _ _ _
theorem qfreq (r : Range) (i : Byte) : Statement (.qfreq r i) := field_packWord _ _ _
theorem clrerr : Statement .clrerr := field_packWord _ _ _
theorem sreset : Statement .sreset := field_packWord _ _ _

end EncodedOpcode

end Sys2Proof.Laws
end

