-- ==== Sys2Proof/Tests/Slice0.lean ====
section
/-! SUPPORT. Tests. Words, values and tables come from spec/30_encoding.md and spec/95_test_vectors.md (the section is named at each test). At the end, one witness per statement
that has hypotheses: concrete states and operands that meet them all. -/

namespace Sys2Proof.Tests

open Sys2Proof Sys2Proof.Machine

/-- One field of a next state. -/
def nextVal {α : Type} (o : Host.Outcome State Fault Refusal) (f : State → α) : Option α :=
  match o with
  | .next t => some (f t)
  | .fault _ => none
  | .refused _ => none

/-- A host write of the word `w` to CMD as the only input. -/
def withCmd (s : State) (w : Word) : State := { s with pending := [wr32 0x0000#16 w] }

/-- The configuration of 95 section 4.1, in the registers. -/
def configured : State :=
  { State.reset with minFreq := 0x80#32, maxFreq := 0x800#32, numBars := 4#32 }

/-- The same with the thresholds of 95 section 4.1 and three empty valid working tables. -/
def ready : State :=
  { configured with
    thr := [0#16, 256#16, 512#16, 1024#16, 2048#16] ++ List.replicate 252 0#16
    thrN := 4#32
    thrValid := true
    low := ⟨List.replicate 256 0#8, true, .variantA⟩
    mid := ⟨List.replicate 256 0#8, true, .variantA⟩
    high := ⟨List.replicate 256 0#8, true, .variantA⟩ }

/-- `ready` with a QFREQ in flight. -/
def busy : State := { ready with inflight := some (ready.snapshot .qfreq .low 255#16) }

/-! ### Well-formedness: one ill-formed word for each check (95 section 5.1) -/

theorem test_wf_reserved_opcode : WellFormed.opAssigned 0x00000009#32 = false := by decide
theorem test_wf_reserved_bits : WellFormed.reservedClear 0x00008000#32 = false := by decide
theorem test_wf_range_unused : WellFormed.rangeUnusedClear 0x00000011#32 = false := by decide
theorem test_wf_range_three : WellFormed.rangeNotReserved 0x00000032#32 = false := by decide
theorem test_wf_arg_unused : WellFormed.argUnusedClear 0x00010002#32 = false := by decide
theorem test_wf_index_wide : WellFormed.indexFitsByte 0x01000006#32 = false := by decide
theorem test_wf_refuses_each : [0x00000009#32, 0x00008000#32, 0x00000011#32, 0x00000032#32, 0x00010002#32,
    0x01000006#32].all (fun w => !WellFormed.legalWord w) = true := by decide
theorem test_wf_accepts_qfreq : WellFormed.legalWord 0x00FF0026#32 = true := by decide

/-! ### Decoding: every constructor's word, written out from 30_encoding.md R71 and its derived list -/

theorem test_decode_nop : decode 0b00000000000000000000000000000000#32 = .ok .nop := by decide
theorem test_decode_genThr : decode 0b00000000000000000000000000000001#32 = .ok .genThr := by decide
theorem test_decode_build_low : decode 0b00000000000000000000000000000010#32 = .ok (.build .low) := by decide
theorem test_decode_build_high : decode 0b00000000000000000000000000100010#32 = .ok (.build .high) := by decide
theorem test_decode_commit : decode 0b00000000000000000000000000000011#32 = .ok .commit := by decide
theorem test_decode_run : decode 0b00000000000000000000000000000100#32 = .ok .run := by decide
theorem test_decode_resolve : decode 0b00000000100101100000000000000101#32 = .ok (.resolve .low 150#16) := by decide
theorem test_decode_resolve_high : decode 0b11111111111111110000000000100101#32 = .ok (.resolve .high 0xFFFF#16) := by
  decide
theorem test_decode_qfreq : decode 0b00000000101111110000000000010110#32 = .ok (.qfreq .mid 191#8) := by decide
theorem test_decode_clrerr : decode 0b00000000000000000000000000000111#32 = .ok .clrerr := by decide
theorem test_decode_sreset : decode 0b00000000000000000000000000001000#32 = .ok .sreset := by decide
theorem test_decode_rejects_by_name : decode 0x0000000F#32 = .error .reservedOpcode ∧
    decode 0x00000042#32 = .error .reservedBits ∧ decode 0x00000017#32 = .error .rangeNotUsed ∧
    decode 0x00000035#32 = .error .rangeReserved ∧ decode 0x80000008#32 = .error .argNotUsed ∧
    decode 0xFF000006#32 = .error .indexTooWide := by decide
theorem test_encode_resolve : encode (.resolve .mid 0x3FE0#16) = 0x3FE00015#32 := by decide
theorem test_table_word : decodeTableWord 32 0xFF0026 = some (.qfreq .high 255#8) ∧
    decodeTableWord 40 0 = none := by decide

/-! ### The commands -/

/-- 95 section 5.8: NOP while busy is accepted and changes nothing. -/
theorem test_nop_busy : nextVal (step (withCmd busy 0#32)) (fun t => (t.status, t.inflight)) =
    some (busy.status, busy.inflight) := by decide

/-- 95 section 5.2: from reset GEN_THR is rejected with CFG_MIN_ZERO. -/
theorem test_genThr_reset : nextVal (step (State.reset.withFetchWord 32 1)) State.status = some 0x200#32 := by
  decide

/-- 95 section 4.1: GEN_THR's completion writes `128·2^i`. -/
theorem test_genThr_completion :
    nextVal (step { configured with inflight := some (configured.snapshot .genThr .low 0#16) })
      (fun t => ((List.range 6).map t.thrAt, t.thrN, t.status)) =
    some ([0#16, 256#16, 512#16, 1024#16, 2048#16, 0#16], 4#32, 2#32) := by decide +kernel

/-- 95 section 4.1: low 127 is bar 3 by the scan, low 128 falls back to bar 0 and sets UNREACH. -/
theorem test_build_low :
    nextVal (step { ready with inflight := some (ready.snapshot .build .low 0#16) })
      (fun t => (t.low.at 15, t.low.at 16, t.low.at 127, t.low.at 128, t.unreach, t.clampHit)) =
    some (0#8, 1#8, 3#8, 0#8, true, false) := by decide +kernel

/-- 95 section 4.1: high 7 is bar 3 by the scan, high 255 by the clamp. -/
theorem test_build_high :
    nextVal (step { ready with inflight := some (ready.snapshot .build .high 0#16) })
      (fun t => (t.high.at 1, t.high.at 3, t.high.at 255, t.unreach, t.clampHit)) =
    some (1#8, 2#8, 3#8, false, true) := by decide +kernel

/-- P5 steps 11 and 12: RESOLVE low 0x100 gives bar 1; RESOLVE high 0x800 gives bar 3, CLAMPED. -/
theorem test_resolve_scan :
    nextVal (step { ready with inflight := some (ready.snapshot .resolve .low 0x100#16) }) State.result =
    some 0x00000001#32 := by decide
theorem test_resolve_clamp :
    nextVal (step { ready with inflight := some (ready.snapshot .resolve .high 0x800#16) })
      (fun t => (t.result, t.clampHit)) = some (0x00000103#32, true) := by decide

/-- 95 section 5.5: VariantB's mid index 191 is 0x3FE0, index 192 is INVALID. -/
theorem test_qfreq_last :
    nextVal (step { ready with inflight := some { ready.snapshot .qfreq .mid 191#16 with scheme := 1#32 } })
      State.result = some 0x00003FE0#32 := by decide
theorem test_qfreq_masked :
    nextVal (step { ready with inflight := some { ready.snapshot .qfreq .mid 192#16 with scheme := 1#32 } })
      State.result = some 0x00010000#32 := by decide

/-- R85: a byte of each table lands at its place in the blob. -/
theorem test_commit_layout :
    nextVal (step { ready with
        inflight := some (ready.snapshot .commit .low 0#16)
        low := ⟨1#8 :: List.replicate 255 0#8, true, .variantB⟩
        mid := ⟨2#8 :: List.replicate 255 0#8, true, .variantB⟩
        high := ⟨3#8 :: List.replicate 255 0#8, true, .variantB⟩ })
      (fun t => (t.out, t.status)) =
    some ([(0x2000, 1#8), (0x2100, 2#8), (0x2200, 3#8)], 0x103E#32) := by decide +kernel

/-- 95 section 5.6: COMMIT from reset is SEQ_INCOMPLETE. -/
theorem test_commit_reset : nextVal (step (State.reset.withFetchWord 32 3)) State.status = some 0x700#32 := by
  decide

/-- 95 section 4.1: RUN of `(0x80, 0x800, 4)` under A: STATUS, and the last word of the blob. -/
theorem test_run_completion :
    nextVal (step { configured with inflight := some (configured.snapshot .run .low 0#16) })
      (fun t => (t.status, t.readData (.read 0x22FC#16 .w4))) = some (0xFE#32, 0x03030303#32) := by
  decide +kernel

/-- 95 section 5.7: CFG_RANGE is checked first. -/
theorem test_run_range_first :
    nextVal (step (withCmd { State.reset with minFreq := 0x10000#32, maxFreq := 5#32, scheme := 9#32 } 4#32))
      State.status = some 0x100#32 := by decide

/-- 95 section 5.8: CLRERR clears the sticky fields. -/
theorem test_clrerr : nextVal (step (withCmd { busy with err := .cmdBusy, unreach := true } 7#32))
    (fun t => (t.status, t.inflight)) = some (busy.status, busy.inflight) := by decide

/-- 95 section 5.8 and P4: SRESET resets when idle and is refused when busy. -/
theorem test_sreset_idle : nextVal (step (withCmd ready 8#32)) (fun t => (t.status, t.minFreq, t.thrAt 1)) =
    some (0#32, 0#32, 0#16) := by decide
theorem test_sreset_busy : nextVal (step (withCmd busy 8#32)) (fun t => (t.err, t.inflight)) =
    some (.cmdBusy, busy.inflight) := by decide

/-! ### Numeric core and bus -/

/-- Scenarios 1 and 2 of the source (95 section 1, S7 and S8). -/
theorem test_threshold_scenarios : thr 0x80 0xFFFF 40 1 = 150 ∧ thr 0x100 0xFFFF 40 1 = 294 := by decide +kernel

/-- The closest approach to a rounding tie (95 section 2), and a value one bit of `pow64` would show (section 4.2). -/
theorem test_threshold_risk_cases : thr 0x80 0xFFFF 40 38 = 47974 ∧ thr 0xFFFE 0xFFFF 2 1 = 65534 := by
  decide +kernel

/-- The middle of the largest table (95 section 4.4). -/
theorem test_threshold_most_bars : thr 1 0xFFFF 256 9 = 1 ∧ thr 1 0xFFFF 256 249 = 48392 := by decide +kernel

/-- 95 section 5.10: a misaligned 16-bit read gets ERROR, data 0 and BUS_ACCESS. -/
theorem test_bus_misaligned :
    nextVal (step { State.reset with pending := [rd16 0x2001#16] }) (fun t => (t.response, t.status)) =
    some (some (.error (some 0#32)), 0xA00#32) := by decide

/-- R105 at the largest MAX_FREQ: the floor before the truncation is MAX_FREQ itself. -/
theorem test_threshold_floor : thrFloor 0x80 0xFFFF 40 40 = 0xFFFF := by decide +kernel

/-- Little-endian reads of OUT (95 section 5.10). -/
theorem test_bus_little_endian :
    nextVal (step { State.reset with out := [(0x2201, 7#8)], pending := [rd16 0x2200#16] }) State.response =
    some (some (.okay (some 0x0700#32))) := by decide

/-! ### Witnesses: the hypotheses of each statement are met together -/

theorem ready_thr_above (i : Nat) (h : 4 < i) : ready.thrAt i = 0#16 := by
  obtain ⟨k, rfl⟩ : ∃ k, i = k + 5 := ⟨i - 5, by omega⟩
  simp only [State.thrAt, ready, List.cons_append, List.nil_append, List.getD_cons_succ]
  exact getD_replicate_zero 252 k
where
  getD_replicate_zero (n k : Nat) : (List.replicate n 0#16).getD k 0#16 = 0#16 := by
    simp only [List.getD, List.getElem?_replicate]
    split <;> rfl

theorem ready_at (r : Range) (k : Nat) : (ready.work r).at k = 0#8 := by
  have : (List.replicate 256 0#8).getD k 0#8 = 0#8 := by
    simp only [List.getD, List.getElem?_replicate]
    split <;> rfl
  cases r <;> exact this

/-- A good state with thresholds and three valid tables, in which every long command is accepted. -/
theorem witness_ready_good : ready.Inv where
  thr_length := by decide +kernel
  work_length := by intro r; cases r <;> decide +kernel
  out_canonical := by decide
  out_in_window := by decide
  no_thresholds := by intro h; exact absurd h (by decide)
  thrN_legal := by decide
  thr_floor := by decide
  thr_above := ready_thr_above
  work_needs_thr := by intro r _; decide
  bar_bound := by intro r _ k; rw [ready_at]; decide
  mid_masked := by intro h; exact absurd h (by decide)
  out_masked := by intro h; exact absurd h (by decide)
  no_blob := by decide
  flight_legal := by intro c h; have h : none = some c := h; cases h

theorem witness_legal_config : LegalConfig ready.minFreq ready.maxFreq ready.numBars :=
  ⟨by decide, by decide, by decide, by decide, by decide, by decide⟩

/-- The bounds of R101: the smallest range with one bar, the widest with 256 bars. -/
theorem witness_legal_config_bounds : LegalConfig 1#32 2#32 1#32 ∧ LegalConfig 1#32 0xFFFF#32 256#32 :=
  ⟨⟨by decide, by decide, by decide, by decide, by decide, by decide⟩,
   ⟨by decide, by decide, by decide, by decide, by decide, by decide⟩⟩

/-- `ready` with the engine's turn as the next input, and an idle block: BUILD, RESOLVE, QFREQ, COMMIT, RUN and GEN_THR. -/
def readyTurn : State := { ready with pending := [.engine] }

theorem readyTurn_good : readyTurn.Inv :=
  let h := witness_ready_good
  ⟨h.1, h.2, h.3, h.4, h.5, h.6, h.7, h.8, h.9, h.10, h.11, h.12, h.13, h.14⟩

theorem witness_GenThrWritesTheThresholds : readyTurn.inflight = none ∧
    LegalConfig readyTurn.minFreq readyTurn.maxFreq readyTurn.numBars ∧ readyTurn.pending = .engine :: [] :=
  ⟨rfl, witness_legal_config, rfl⟩

theorem witness_BuildFillsTheRangesWorkingTable : readyTurn.inflight = none ∧ readyTurn.scheme.toNat ≤ 1 ∧
    readyTurn.thrValid = true ∧ readyTurn.Inv ∧ readyTurn.pending = .engine :: [] :=
  ⟨rfl, by decide, rfl, readyTurn_good, rfl⟩

/-- RESOLVE at the boundary between a scan hit and a failed scan: the top threshold 0x800 of `readyTurn`. -/
theorem witness_ResolveWritesTheResolutionToResult : readyTurn.inflight = none ∧
    readyTurn.scheme.toNat ≤ 1 ∧ readyTurn.thrValid = true ∧ readyTurn.Inv ∧
    readyTurn.pending = .engine :: [] ∧
    specResolve readyTurn.thr readyTurn.thrN.toNat 0x7FF false = (3, .scan) ∧
    specResolve readyTurn.thr readyTurn.thrN.toNat 0x800 false = (0, .fallback) ∧
    specResolve readyTurn.thr readyTurn.thrN.toNat 0x800 true = (3, .clamp) :=
  ⟨rfl, by decide, rfl, readyTurn_good, rfl, by decide, by decide, by decide⟩

theorem witness_QfreqWritesTheFrequencyToResult : readyTurn.inflight = none ∧
    readyTurn.scheme.toNat ≤ 1 ∧ readyTurn.pending = .engine :: [] := ⟨rfl, by decide, rfl⟩

theorem witness_CommitWritesTheBlob : readyTurn.inflight = none ∧ (∀ r, (readyTurn.work r).valid = true) ∧
    (∀ r r', (readyTurn.work r).scheme = (readyTurn.work r').scheme) ∧ readyTurn.Inv ∧
    readyTurn.pending = .engine :: [] :=
  ⟨rfl, by intro r; cases r <;> rfl, by intro r r'; cases r <;> cases r' <;> rfl, readyTurn_good, rfl⟩

theorem witness_RunWritesThresholdsTablesAndBlob : readyTurn.inflight = none ∧
    LegalConfig readyTurn.minFreq readyTurn.maxFreq readyTurn.numBars ∧ readyTurn.scheme.toNat ≤ 1 ∧
    readyTurn.pending = .engine :: [] := ⟨rfl, witness_legal_config, by decide, rfl⟩

theorem witness_DecodedWords : decode 0x3FE00015#32 = .ok (.resolve .mid 0x3FE0#16) ∧
    decode 0x00FF0026#32 = .ok (.qfreq .high 255#8) ∧ decode 0x00000022#32 = .ok (.build .high) := by decide

theorem witness_StepRunsTheDecodedCommand :
    (withCmd ready 4#32).pending = .bus (.write 0x0000#16 .w4 4#32) :: [] ∧ decode 4#32 = .ok .run := by decide

theorem witness_IllegalWordRecordsCmdIllegalOnly :
    (withCmd ready 9#32).pending = .bus (.write 0x0000#16 .w4 9#32) :: [] ∧
    WellFormed.legalWord 9#32 = false := by decide

theorem witness_QuiescentBlockStaysAsItIs : ready.pending = [] ∧ ready.inflight = none := by decide

theorem witness_CompletionNeverFailsNorWritesErr : ∃ c,
    { busy with pending := [Event.engine] }.inflight = some c ∧
    { busy with pending := [Event.engine] }.pending = .engine :: [] := ⟨_, rfl, rfl⟩

theorem witness_ResetInputGivesTheResetState :
    { busy with pending := [Event.reset] }.pending = .reset :: [] ∧ ready.inflight = none := by decide

theorem witness_EveryAddressReadsZeroAfterReset :
    { busy with pending := [Event.reset] }.pending = .reset :: [] ∧
    ∃ t, step { busy with pending := [Event.reset] } = .next t := ⟨rfl, _, rfl⟩

theorem witness_FirstErrorIsKept : ready.err = .noError ∧ (ready.raise .cmdBusy).err ≠ .noError ∧
    ErrCode.cmdBusy ≠ .noError := by decide

/-- R192: a RUN right after reset is rejected with CFG_MIN_ZERO; and a QFREQ right after reset has no cause to be rejected. -/
theorem witness_ChecksAreMadeInTheFixedOrder : FirstError State.reset .run .cfgMinZero ∧
    (∀ e, ¬ causeHolds State.reset (.qfreq .low 0#8) e) ∧
    (∃ c, flightOf State.reset (.qfreq .low 0#8) = some c) ∧
    WellFormed.legalWord 0x00000032#32 = false ∧ (Transaction.write 0x0002#16 .w4 4#32).legal = false := by
  refine ⟨⟨[.cmdBusy, .cfgRange], _, rfl, ⟨rfl, by decide⟩, ?_⟩, ?_, ⟨_, rfl⟩, by decide, by decide⟩
  · intro d hd
    simp only [List.mem_cons, List.not_mem_nil, or_false] at hd
    rcases hd with rfl | rfl
    · intro h; exact h.2 rfl
    · intro h; exact absurd h.2 (by decide)
  · intro e
    cases e <;> simp [causeHolds, readsBounds, readsScheme, needsThresholds, State.reset]

theorem witness_BusyBlockRejectsLongCommandsAndSreset :
    (∃ c, busy.inflight = some c) ∧ isLong .genThr = true := ⟨⟨_, rfl⟩, rfl⟩

/-- An illegal access of each kind, at the last address below 0x2000 and at the first one above it. -/
theorem witness_IllegalTransactionRecordsBusAccessOnly :
    { ready with pending := [rd8 0x1FFF#16] }.pending = .bus (.read 0x1FFF#16 .w1) :: [] ∧
    (Transaction.width (.read 0x1FFF#16 .w1)).bytes ≠ 4 ∧ Transaction.addr (.read 0x1FFF#16 .w1) < 0x2000 ∧
    Transaction.addr (.read 0x2001#16 .w2) % (Transaction.width (.read 0x2001#16 .w2)).bytes ≠ 0 := by decide

theorem witness_NopIsTheWordZero : decode 0#32 = .ok .nop := by decide

theorem witness_OnlyClrerrAndResetClearTheStickyFields :
    ∃ t, step { ready with err := .cmdBusy, pending := [cmdWrite .clrerr] } = .next t ∧
      ErrCode.cmdBusy ≠ .noError ∧ t.err ≠ .cmdBusy := ⟨_, rfl, by decide, by decide⟩

theorem witness_SresetResetsWhenIdleAndIsRefusedWhenBusy : ready.inflight = none ∧ busy.inflight ≠ none := by
  decide

theorem witness_CmdWriteChangesNoByteButStatus :
    Instr.run ≠ .sreset ∧ ∃ t, exec .run ready = .next t := ⟨by decide, _, rfl⟩

theorem witness_CompletionChangesNoByteItsCommandDoesNotWrite :
    ∃ c, busy.inflight = some c ∧ (c.op = .resolve ∨ c.op = .qfreq) := ⟨_, rfl, by decide⟩

theorem witness_ResultsKeepTheirOldValuesUntilCompletion : ∃ c u,
    { busy with pending := [rd32 0x0018#16] }.inflight = some c ∧
    { busy with pending := [rd32 0x0018#16] }.pending = .bus (.read 0x0018#16 .w4) :: [] ∧
    step { busy with pending := [rd32 0x0018#16] } = .next u ∧
    (Transaction.read 0x0018#16 .w4).legal = true := ⟨_, _, rfl, rfl, rfl, by decide⟩

theorem witness_BlobChangesOnlyAtCommitRunOrReset :
    ∃ t, step { ready with
        out := [(0x2000, 1#8)], outValid := true, pending := [Event.reset] } = .next t ∧ t.out ≠ [(0x2000, 1#8)] :=
  ⟨_, rfl, by decide⟩

theorem witness_ConfigurationWriteNeverAffectsTheCommandInFlight :
    (0x0014#16).toNat = 0x14 ∧
    { busy with pending := [wr32 0x0014#16 7#32] }.pending = .bus (.write 0x0014#16 .w4 7#32) :: [] := by decide

/-- The addresses next to CMD and to the configuration registers, and the last address of the space. -/
theorem witness_WritesToReservedAndReadOnlyAddressesAreIgnored :
    { ready with pending := [wr32 0x0004#16 1#32] }.pending = .bus (.write 0x0004#16 .w4 1#32) :: [] ∧
    [0x0004#16, 0x0018#16, 0x2000#16, 0xFFFC#16].all (fun a =>
      decide (a.toNat % Width.w4.bytes = 0 ∧
        ¬ (a.toNat = 0 ∨ a.toNat = 0x08 ∨ a.toNat = 0x0C ∨ a.toNat = 0x10 ∨ a.toNat = 0x14))) = true ∧
    Width.w4.bytes = 4 := by decide

theorem witness_ReservedAddressesReadZero : ∀ a ∈ [0, 3, 0x20, 0xFFF, 0x1404, 0x1FFF, 0x2300],
    a < 4 ∨ (0x20 ≤ a ∧ a < 0x1000) ∨ (0x1404 ≤ a ∧ a < 0x2000) ∨ 0x2300 ≤ a := by decide

/-- One read; two reads of STATUS with a narrow read of OUT between them; a write to the first configuration register, and a narrow one to the last address. -/
theorem witness_ReadsHaveNoSideEffect :
    (Transaction.read 0x0004#16 .w4).legal = true ∧ (Transaction.read 0x22FF#16 .w1).legal = true ∧
    { ready with pending := [rd32 0x0004#16] }.pending = .bus (.read 0x0004#16 .w4) :: [] ∧
    { ready with pending := [rd32 0x0004#16, rd8 0x22FF#16, rd32 0x0004#16] }.pending =
      .bus (.read 0x0004#16 .w4) ::
        ([(0x22FF#16, Width.w1)].map (fun p => .bus (.read p.1 p.2)) ++ .bus (.read 0x0004#16 .w4) :: []) ∧
    (Transaction.write 0x0008#16 .w4 1#32).legal = true ∧ (0x0008#16).toNat ≠ 0 ∧
    (Transaction.write 0xFFFF#16 .w1 1#32).legal = true ∧
    { ready with pending := [wr32 0x0008#16 1#32] }.pending = .bus (.write 0x0008#16 .w4 1#32) :: [] := by
  decide

theorem witness_ReadsAreLittleEndian : (0x1FFC#16).toNat % 4 = 0 ∧ (0x1FFC#16).toNat < 0x2000 ∧
    (Transaction.read 0x1FFC#16 .w4).legal = true ∧ (Transaction.read 0xFFFF#16 .w1).legal = true ∧
    { ready with pending := [rd8 0xFFFF#16] }.pending = .bus (.read 0xFFFF#16 .w1) :: [] := by decide

theorem witness_RegistersReadBack :
    { ready with pending := [rd32 0x001C#16] }.pending = .bus (.read 0x001C#16 .w4) :: [] ∧
    ∃ t, step { ready with pending := [rd32 0x001C#16] } = .next t := ⟨rfl, _, rfl⟩

/-- The first and the last entry of the THR window, the reserved words after it, and a narrow access. -/
theorem witness_ThrWindowReadsTheThresholds : ready.Inv ∧ (0x1000#16).toNat = 0x1000 + 4 * 0 ∧
    (0x1400#16).toNat = 0x1000 + 4 * 256 ∧ ready.thrN.toNat < 256 ∧
    (0x1404 ≤ (0x1404#16).toNat ∧ (0x1FFC#16).toNat < 0x2000 ∧ (0x1404#16).toNat % 4 = 0) ∧
    Width.w2 ≠ .w4 ∧ (∃ t, step { ready with pending := [rd32 0x1400#16] } = .next t) ∧
    ∃ t, step { ready with pending := [rd32 0x1404#16] } = .next t :=
  ⟨witness_ready_good, by decide, by decide, by decide, by decide, by decide, ⟨_, rfl⟩, _, rfl⟩

theorem witness_CycleOrderPutsResetThenCompletionFirst :
    (Cycle.mk true true none false).reset = true ∧
    (Cycle.mk false true (some (.write 0x0000#16 .w4 4#32)) true).completion = true ∧
    { busy with pending := (Cycle.mk false true (some (.write 0x0000#16 .w4 4#32)) true).events }.pending =
      (Cycle.mk false true (some (.write 0x0000#16 .w4 4#32)) true).events := by decide

/-- A quotient that is a tie between two representable values: `2^53 + 1` units. -/
theorem witness_Round64IsNearestEven : 0 < 1 ∧ round64 (2 ^ 53 + 1) 1 = 2 ^ 53 := by decide +kernel

theorem witness_Pow64IsCorrectlyRounded :
    Representable (16 * unit64) ∧ unit64 ≤ 16 * unit64 ∧ 0 < unit64 / 4 ∧ unit64 / 4 ≤ unit64 :=
  ⟨⟨1, 1078, by decide +kernel, by decide⟩, by decide +kernel, by decide +kernel, by decide +kernel⟩

theorem witness_ResolutionIsTheSpecsLoop : ready.thr.length = 257 ∧ 4 ≤ 256 := by decide +kernel

theorem witness_ResolutionOverASortedTable : ready.thr.length = 257 ∧ 1 ≤ 4 ∧ 4 ≤ 256 ∧
    ready.thr.getD 0 0#16 = 0#16 ∧ (∀ i, i < 4 → ready.thr.getD i 0#16 ≤ ready.thr.getD (i + 1) 0#16) ∧
    0x7FF < (ready.thr.getD 4 0#16).toNat ∧ (ready.thr.getD 4 0#16).toNat ≤ 0x800 := by decide +kernel

theorem witness_MaskedIndices : 192 ≤ 192 ∧ 255 < 256 := by decide

theorem witness_RangesAreIndependent : Range.low ≠ .mid ∧ busy.thr = ready.thr ∧ busy.thrN = ready.thrN := by decide +kernel

theorem witness_PresetsAreWellFormed : freqOf .variantA .high 255 = some 0xFF80 := by decide

theorem witness_RunEqualsTheStepByStepPipeline : ready.inflight = none ∧
    LegalConfig ready.minFreq ready.maxFreq ready.numBars ∧ ready.scheme.toNat ≤ 1 :=
  ⟨rfl, witness_legal_config, by decide⟩

/-- Two idle blocks with one configuration, one of them straight from the configuration writes, the other with old thresholds. -/
theorem witness_BlobDependsOnTheConfigurationAlone : ready.inflight = none ∧ configured.inflight = none ∧
    LegalConfig ready.minFreq ready.maxFreq ready.numBars ∧ ready.scheme.toNat ≤ 1 ∧
    configured.minFreq = ready.minFreq ∧ configured.maxFreq = ready.maxFreq ∧
    configured.numBars = ready.numBars ∧ configured.scheme = ready.scheme ∧ configured.thrN ≠ ready.thrN :=
  ⟨rfl, rfl, witness_legal_config, by decide, rfl, rfl, rfl, rfl, by decide⟩

theorem witness_EveryStepKeepsTheStateGood : ready.Inv ∧ ∃ t, step ready = .next t :=
  ⟨witness_ready_good, _, rfl⟩

theorem witness_EveryStepKeepsTheThresholdsSorted : ready.ThrInv ∧ ∃ t, step ready = .next t :=
  ⟨⟨by decide, by decide, by decide, by intro c h; have h : none = some c := h; cases h⟩, _, rfl⟩

/-- The first byte, the last byte and the last word of the OUT window. -/
theorem witness_OutWindowReadsTheBlob :
    ((0x2000#16).toNat = 0x2000 + 0 ∧ 0 % Width.w1.bytes = 0 ∧ 0 + Width.w1.bytes ≤ 768) ∧
    ((0x22FF#16).toNat = 0x2000 + 767 ∧ 767 % Width.w1.bytes = 0 ∧ 767 + Width.w1.bytes ≤ 768) ∧
    ((0x22FC#16).toNat = 0x2000 + 764 ∧ 764 % Width.w4.bytes = 0 ∧ 764 + Width.w4.bytes ≤ 768) ∧
    { ready with pending := [rd32 0x22FC#16] }.pending = .bus (.read 0x22FC#16 .w4) :: [] ∧
    { ready with pending := [wr32 0x22FC#16 1#32] }.pending = .bus (.write 0x22FC#16 .w4 1#32) :: [] := by decide

/-- The first and the last threshold of the widest table. -/
theorem witness_ThresholdIsTheSpecsRoundedSteps : LegalConfig 1#32 0xFFFF#32 256#32 ∧
    1 ≤ (256#32).toNat ∧ (256#32).toNat ≤ (256#32).toNat :=
  ⟨witness_legal_config_bounds.2, by decide, by decide⟩

end Sys2Proof.Tests
end

section
/-! What every step can do to the tables and to the record in flight: the engine's turn, a reset, or nothing to the tables and at
most a legal record put in flight. -/

namespace Sys2Proof.Machine

/-! ### Steps that leave the tables alone -/

/-- `t` has the thresholds, working tables and blob of `s`, with their valid and scheme bits: all that the invariants read
beside the record in flight. -/
structure SameTables (s t : State) : Prop where
  thr : t.thr = s.thr
  thrN : t.thrN = s.thrN
  thrValid : t.thrValid = s.thrValid
  low : t.low = s.low
  mid : t.mid = s.mid
  high : t.high = s.high
  out : t.out = s.out
  outValid : t.outValid = s.outValid
  outScheme : t.outScheme = s.outScheme

theorem SameTables.refl (s : State) : SameTables s s := by constructor <;> rfl

theorem SameTables.trans {s t u : State} (h : SameTables s t) (h' : SameTables t u) : SameTables s u where
  thr := h'.thr.trans h.thr
  thrN := h'.thrN.trans h.thrN
  thrValid := h'.thrValid.trans h.thrValid
  low := h'.low.trans h.low
  mid := h'.mid.trans h.mid
  high := h'.high.trans h.high
  out := h'.out.trans h.out
  outValid := h'.outValid.trans h.outValid
  outScheme := h'.outScheme.trans h.outScheme

theorem SameTables.work {s t : State} (h : SameTables s t) (r : Range) : t.work r = s.work r := by
  cases r
  · exact h.low
  · exact h.mid
  · exact h.high

theorem sameTables_pending (s : State) (es : List Event) : SameTables s { s with pending := es } := by
  constructor <;> rfl

theorem sameTables_inflight (s : State) (c : Option InFlight) : SameTables s { s with inflight := c } := by
  constructor <;> rfl

theorem sameTables_raise (s : State) (e : ErrCode) : SameTables s (s.raise e) := by constructor <;> rfl

theorem sameTables_clearSticky (s : State) : SameTables s s.clearSticky := by constructor <;> rfl

theorem sameTables_respond (s : State) (r : Response) : SameTables s (s.respond r) := by constructor <;> rfl

theorem sameTables_writeRegister (s : State) (a : Nat) (v : Word) : SameTables s (s.writeRegister a v) := by
  constructor <;> simp

theorem FlightLegal.of_sameTables {s t : State} {c : InFlight} (h : FlightLegal s c) (hst : SameTables s t) :
    FlightLegal t c := by
  obtain ⟨op, range, arg, min, max, n, scheme⟩ := c
  cases op <;> simpa [FlightLegal, hst.thrValid, hst.work] using h

/-- `t` has the tables of `s`, and either its record in flight or a new one that is legal. -/
structure KeepsTables (s t : State) : Prop extends SameTables s t where
  flight : t.inflight = s.inflight ∨ ∃ c, t.inflight = some c ∧ FlightLegal t c

theorem SameTables.keeps {s t : State} (h : SameTables s t) (hi : t.inflight = s.inflight) : KeepsTables s t :=
  ⟨h, .inl hi⟩

theorem KeepsTables.of_pending {s t : State} {es : List Event} (h : KeepsTables { s with pending := es } t) :
    KeepsTables s t :=
  ⟨(sameTables_pending s es).trans h.toSameTables, h.flight⟩

theorem KeepsTables.respond {s t : State} (h : KeepsTables s t) (r : Response) : KeepsTables s (t.respond r) where
  toSameTables := h.toSameTables.trans (sameTables_respond t r)
  flight := h.flight.imp id fun ⟨c, hc, hl⟩ => ⟨c, hc, hl.of_sameTables (sameTables_respond t r)⟩

/-! ### Acceptance puts only legal records in flight -/

theorem thresholdChecks_pass {c : InFlight} (h : ∀ d ∈ thresholdChecks c, d.2 = false) :
    LegalConfig c.min c.max c.n := by
  simp only [thresholdChecks, List.forall_mem_cons, decide_eq_false_iff_not, not_or] at h
  obtain ⟨⟨hmin, hmax⟩, hzero, hlt, ⟨hn, hn'⟩, -⟩ := h
  constructor <;> bv_omega

theorem schemeChecks_pass {c : InFlight} (h : ∀ d ∈ schemeChecks c, d.2 = false) : c.scheme.toNat ≤ 1 := by
  simp only [schemeChecks, List.forall_mem_cons, decide_eq_false_iff_not] at h
  obtain ⟨h, -⟩ := h
  bv_omega

theorem thresholdsPresentChecks_pass {s : State} (h : ∀ d ∈ thresholdsPresentChecks s, d.2 = false) :
    s.thrValid = true := by
  simpa [thresholdsPresentChecks] using h

theorem tablesCompleteChecks_pass {s : State} (h : ∀ d ∈ tablesCompleteChecks s, d.2 = false) :
    (∀ r, (s.work r).valid = true) ∧ ∀ r r', (s.work r).scheme = (s.work r').scheme := by
  simp only [tablesCompleteChecks, List.forall_mem_cons, Bool.not_eq_false', Bool.and_eq_true,
    decide_eq_true_eq] at h
  obtain ⟨⟨⟨hlow, hmid⟩, hhigh⟩, ⟨hlm, hmh⟩, -⟩ := h
  have hmid_scheme : ∀ r, (s.work r).scheme = s.mid.scheme := by
    intro r
    cases r
    · exact hlm
    · rfl
    · exact hmh.symm
  constructor
  · intro r
    cases r
    · exact hlow
    · exact hmid
    · exact hhigh
  · exact fun r r' => (hmid_scheme r).trans (hmid_scheme r').symm

/-- An acceptance keeps the tables, where the passed checks make the record legal. -/
theorem keepsTables_acceptLong {s : State} {rec : InFlight} {cs : List (ErrCode × Bool)}
    (h : (∀ d ∈ cs, d.2 = false) → FlightLegal s rec) : KeepsTables s (s.acceptLong rec cs) := by
  obtain ⟨-, heq⟩ | ⟨-, e, -, heq⟩ | ⟨-, hpass, heq⟩ := s.acceptLong_cases rec cs
  · rw [heq]; exact (sameTables_raise s _).keeps rfl
  · rw [heq]; exact (sameTables_raise s e).keeps rfl
  · have hsame := sameTables_inflight s (some rec)
    rw [heq]
    exact ⟨hsame, .inr ⟨rec, rfl, (h ((firstFailing_none_iff cs).mp hpass)).of_sameTables hsame⟩⟩

/-- A command at its CMD write is a reset (SRESET of an idle block), or keeps the tables. -/
theorem exec_keepsTables {i : Instr} {s t : State} (h : exec i s = .next t) :
    (i = .sreset ∧ t = s.resetEvent) ∨ KeepsTables s t := by
  cases i with
  | nop => cases h; exact .inr ((SameTables.refl s).keeps rfl)
  | clrerr => cases h; exact .inr ((sameTables_clearSticky s).keeps rfl)
  | sreset =>
    simp only [exec, execSreset] at h
    split at h <;> cases h
    · exact .inr ((sameTables_raise s _).keeps rfl)
    · exact .inl ⟨rfl, rfl⟩
  | genThr => cases h; exact .inr (keepsTables_acceptLong thresholdChecks_pass)
  | commit => cases h; exact .inr (keepsTables_acceptLong tablesCompleteChecks_pass)
  | qfreq r idx =>
    cases h
    refine .inr (keepsTables_acceptLong fun hpass => ⟨schemeChecks_pass hpass, ?_⟩)
    show (idx.setWidth 16).toNat < 256
    rw [BitVec.toNat_setWidth_of_le (by decide)]
    exact idx.isLt
  | build r =>
    cases h
    refine .inr (keepsTables_acceptLong fun hpass => ?_)
    rw [List.forall_mem_append] at hpass
    exact ⟨schemeChecks_pass hpass.1, thresholdsPresentChecks_pass hpass.2⟩
  | resolve r f =>
    cases h
    refine .inr (keepsTables_acceptLong fun hpass => ?_)
    rw [List.forall_mem_append] at hpass
    exact ⟨schemeChecks_pass hpass.1, thresholdsPresentChecks_pass hpass.2⟩
  | run =>
    cases h
    refine .inr (keepsTables_acceptLong fun hpass => ?_)
    rw [List.forall_mem_append] at hpass
    exact ⟨thresholdChecks_pass hpass.1, schemeChecks_pass hpass.2⟩

/-! ### What a step can do -/

/-- A word is its four fields (R70). -/
theorem word_eq_of_fields {v w : Word} (hop : opField v = opField w) (hrange : rangeField v = rangeField w)
    (hrsv : rsvField v = rsvField w) (harg : argField v = argField w) : v = w := by
  apply BitVec.eq_of_toNat_eq
  have hop := congrArg BitVec.toNat hop
  have hrange := congrArg BitVec.toNat hrange
  have hrsv := congrArg BitVec.toNat hrsv
  have harg := congrArg BitVec.toNat harg
  simp only [opField, rangeField, rsvField, argField, BitVec.extractLsb'_toNat,
    Nat.shiftRight_eq_div_pow] at hop hrange hrsv harg
  omega

theorem decodePlain_ok_iff {w : Word} {i j : Instr} :
    decodePlain w i = .ok j ↔ rangeField w = 0#2 ∧ argField w = 0#16 ∧ i = j := by
  unfold decodePlain
  split_ifs with hr ha <;> simp_all

theorem decodeBuild_ok {w : Word} {i : Instr} (h : decodeBuild w = .ok i) : ∃ r, i = .build r := by
  unfold decodeBuild at h
  split at h
  · cases h
  · split at h <;> cases h
    exact ⟨_, rfl⟩

theorem decodeResolve_ok {w : Word} {i : Instr} (h : decodeResolve w = .ok i) : ∃ r f, i = .resolve r f := by
  unfold decodeResolve at h
  split at h <;> cases h
  exact ⟨_, _, rfl⟩

theorem decodeQfreq_ok {w : Word} {i : Instr} (h : decodeQfreq w = .ok i) : ∃ r idx, i = .qfreq r idx := by
  unfold decodeQfreq at h
  split at h
  · cases h
  · split at h <;> cases h
    exact ⟨_, _, rfl⟩

/-- Only the word 8 is SRESET (R71, R73). -/
theorem eq_encode_of_decode_sreset {w : Word} (h : decode w = .ok .sreset) : w = encode .sreset := by
  unfold decode at h
  split_ifs at h with h9 hrsv h0 h1 h2 h3 h4 h5 h6 h7
  case pos => simp [decodePlain_ok_iff] at h
  case pos => simp [decodePlain_ok_iff] at h
  case pos => obtain ⟨r, h⟩ := decodeBuild_ok h; cases h
  case pos => simp [decodePlain_ok_iff] at h
  case pos => simp [decodePlain_ok_iff] at h
  case pos => obtain ⟨r, f, h⟩ := decodeResolve_ok h; cases h
  case pos => obtain ⟨r, idx, h⟩ := decodeQfreq_ok h; cases h
  case pos => simp [decodePlain_ok_iff] at h
  case neg =>
    obtain ⟨hrange, harg, -⟩ := decodePlain_ok_iff.mp h
    have hop : opField w = 8#4 := by bv_omega
    exact word_eq_of_fields hop hrange (not_not.mp hrsv) harg

/-- A legal transaction at CMD's address is 4 bytes wide and at address 0 (R57). -/
theorem Transaction.eq_cmd_of_legal {a : BitVec 16} {w : Width} {v : Word}
    (hl : (Transaction.write a w v).legal = true) (ha : a.toNat = addrCmd) :
    Transaction.write a w v = .write 0x0000#16 .w4 v := by
  have hzero : a = 0x0000#16 := BitVec.eq_of_toNat_eq ha
  subst hzero
  rw [legal, Bool.and_eq_true, Bool.or_eq_true, decide_eq_true_eq (p := narrowBase ≤ _)] at hl
  obtain ⟨-, hnarrow | hw⟩ := hl
  · exact absurd (show 0x2000 ≤ 0 from hnarrow) (by decide)
  · rw [show w = .w4 from of_decide_eq_true hw]

/-- A transaction is a write of SRESET that resets the block, or keeps the tables. -/
theorem transact_keepsTables {s t : State} {tr : Transaction} (h : s.transact tr = .next t) :
    (Event.bus tr = cmdWrite .sreset ∧ ∃ r, t = s.resetEvent.respond r) ∨ KeepsTables s t := by
  obtain ⟨-, ht⟩ | ⟨-, a, w, -, ht⟩ | ⟨-, a, w, v, e, -, -, -, ht⟩ | ⟨hl, a, w, v, i, rfl, ha, hd, ht⟩ |
    ⟨-, a, w, v, -, -, ht⟩ := s.transact_cases tr
  · rw [ht] at h; cases h
    exact .inr (((sameTables_raise s _).keeps rfl).respond _)
  · rw [ht] at h; cases h
    exact .inr (((SameTables.refl s).keeps rfl).respond _)
  · rw [ht] at h; cases h
    exact .inr (((sameTables_raise s _).keeps rfl).respond _)
  · rw [ht] at h
    rcases hx : exec i s with u | f | f <;> rw [hx] at h <;> cases h
    obtain ⟨rfl, rfl⟩ | hk := exec_keepsTables hx
    · rw [Transaction.eq_cmd_of_legal hl ha, eq_encode_of_decode_sreset hd]
      exact .inl ⟨rfl, _, rfl⟩
    · exact .inr (hk.respond _)
  · rw [ht] at h; cases h
    exact .inr (((sameTables_writeRegister s _ v).keeps (s.writeRegister_inflight _ v)).respond _)

/-- A step is the engine's turn, a reset (the input, or SRESET of an idle block), or it keeps the tables. -/
theorem step_effect {s t : State} (h : step s = .next t) :
    (∃ rest, (s.pending = [] ∨ s.pending = .engine :: rest) ∧ t = { s with pending := rest }.engineTurn) ∨
    (∃ rest resp, (s.pending = .reset :: rest ∨ s.pending = cmdWrite .sreset :: rest) ∧
      t = { State.reset with pending := rest, response := resp }) ∨
    KeepsTables s t := by
  obtain ⟨hp, hs⟩ | ⟨rest, hp, hs⟩ | ⟨rest, hp, hs⟩ | ⟨tr, rest, hp, hs⟩ := step_cases s
  · rw [hs] at h; cases h
    exact .inl ⟨[], .inl hp, by rw [← hp]⟩
  · rw [hs] at h; cases h
    exact .inl ⟨rest, .inr hp, rfl⟩
  · rw [hs] at h; cases h
    exact .inr (.inl ⟨rest, s.response, .inl hp, rfl⟩)
  · rw [hs] at h
    obtain ⟨htr, r, rfl⟩ | hk := transact_keepsTables h
    · exact .inr (.inl ⟨rest, some r, .inr (htr ▸ hp), rfl⟩)
    · exact .inr (.inr hk.of_pending)

end Sys2Proof.Machine
end

section
/-! Each operation on the tables keeps a state good. -/

namespace Sys2Proof.Machine

/-! ### Bars and built tables -/

/-- A scan answers a bar whose upper boundary is in the list. -/
theorem scan_lt {f b r : Nat} {l : List Half} (h : scan f b l = some r) : r + 1 < b + l.length := by
  induction l generalizing b with
  | nil => cases h
  | cons lo rest ih =>
    cases rest with
    | nil => cases h
    | cons hi rest =>
      rw [scan] at h
      split at h
      · cases h; simp
      · have := ih h
        simp only [List.length_cons] at this ⊢
        omega

/-- Every resolution over at least one bar answers a bar below the bar count (R123 (d)). -/
theorem resolve_lt {n : Nat} (hn : 1 ≤ n) (table : List Half) (f : Nat) (clamp : Bool) :
    (resolve table n f clamp).1 < n := by
  obtain ⟨b, hb, hr⟩ | ⟨-, -, -, hr⟩ | ⟨-, -, hr⟩ := resolve_cases table n f clamp <;> rw [hr]
  · have := scan_lt hb
    rw [List.length_take] at this
    show b < n
    omega
  · show n - 1 < n
    omega
  · exact hn

/-- A byte of a built table is below THR_N, where THR_N is legal. -/
theorem entryByte_bandEntry_lt {s : State} (hn : 1 ≤ s.thrN.toNat) (hn' : s.thrN.toNat ≤ 256) (sch : Scheme)
    (r : Range) (k : Nat) : (entryByte (s.bandEntry sch r k)).toNat < s.thrN.toNat := by
  rw [State.bandEntry]
  cases freqOf sch r k with
  | none => exact hn
  | some f =>
    have hlt := resolve_lt hn s.thr f (preset sch r).clamp
    show (BitVec.ofNat 8 (resolve s.thr s.thrN.toNat f (preset sch r).clamp).1).toNat < _
    rwa [BitVec.toNat_ofNat, Nat.mod_eq_of_lt (hlt.trans_le hn')]

/-- Entry `k` of the table that BuildTable leaves; past its end a table reads 0. -/
theorem State.at_buildTable_self (s : State) (sch : Scheme) (r : Range) (k : Nat) :
    ((s.buildTable sch r).work r).at k = if k < 256 then entryByte (s.bandEntry sch r k) else 0#8 := by
  rw [work_buildTable_self]
  simp only [WorkTable.at, bandEntries, List.map_map, List.getD, List.getElem?_map, Config.bandEntries]
  split
  · next hk => rw [List.getElem?_range hk]; rfl
  · next hk => rw [List.getElem?_eq_none (by simpa using hk)]; rfl

/-- The mid indices that VariantB masks (R126). -/
theorem freqOf_variantB_mid {k : Nat} (h : 192 ≤ k) : freqOf .variantB .mid k = none := if_pos h

/-! ### Written thresholds -/

/-- Every entry that WriteThresholds leaves; past its end the storage reads 0. -/
theorem State.thrAt_writeThresholds_eq (s : State) (a b n : Word) (i : Nat) :
    (s.writeThresholds a b n).thrAt i = if i < 257 then thrEntry a.toNat b.toNat n.toNat i else 0#16 := by
  split
  · next hi => exact s.thrAt_writeThresholds a b n hi
  · next hi =>
    rw [thrAt, List.getD_eq_default]
    rw [thr_length_writeThresholds]
    exact Nat.le_of_not_lt hi

theorem thrEntry_above (a b : Nat) {n i : Nat} (h : n < i) : thrEntry a b n i = 0#16 := by
  rw [thrEntry, if_neg (by omega), if_neg (by omega)]

/-! ### Good states -/

/-- A state with the tables of a good state is good, if its record in flight is legal. -/
theorem State.Inv.of_sameTables {s t : State} (h : s.Inv) (hst : SameTables s t)
    (hf : ∀ c, t.inflight = some c → FlightLegal t c) : t.Inv where
  thr_length := by rw [hst.thr]; exact h.thr_length
  work_length r := by rw [hst.work]; exact h.work_length r
  out_canonical := by rw [hst.out]; exact h.out_canonical
  out_in_window := by rw [hst.out]; exact h.out_in_window
  no_thresholds := by simpa only [hst.thrValid, hst.thrN, thrAt, hst.thr] using h.no_thresholds
  thrN_legal := by rw [hst.thrValid, hst.thrN]; exact h.thrN_legal
  thr_floor := by rw [thrAt, hst.thr]; exact h.thr_floor
  thr_above := by simpa only [hst.thrN, thrAt, hst.thr] using h.thr_above
  work_needs_thr r := by rw [hst.work, hst.thrValid]; exact h.work_needs_thr r
  bar_bound r := by rw [hst.work, hst.thrN]; exact h.bar_bound r
  mid_masked := by rw [hst.mid]; exact h.mid_masked
  out_masked := by simpa only [hst.outScheme, outAt, hst.out] using h.out_masked
  no_blob := by rw [hst.outValid, hst.out, hst.outScheme]; exact h.no_blob
  flight_legal := hf

/-- The end of a completion: with nothing in flight, nothing has to be legal. -/
theorem State.Inv.finish {s : State} (h : s.Inv) : s.finish.Inv :=
  h.of_sameTables (sameTables_inflight s none) fun _ hc => nomatch hc

theorem State.Inv.keepsTables {s t : State} (h : s.Inv) (hk : KeepsTables s t) : t.Inv := by
  refine h.of_sameTables hk.toSameTables fun c hc => ?_
  obtain hsame | ⟨d, hd, hlegal⟩ := hk.flight
  · exact (h.flight_legal c (hsame ▸ hc)).of_sameTables hk.toSameTables
  · cases hd.symm.trans hc
    exact hlegal

theorem WorkTable.at_reset (k : Nat) : WorkTable.reset.at k = 0#8 := by
  simp only [WorkTable.at, WorkTable.reset, List.getD, List.getElem?_replicate]
  split <;> rfl

theorem State.work_reset (r : Range) : State.reset.work r = WorkTable.reset := by cases r <;> rfl

theorem State.thrAt_reset (i : Nat) : State.reset.thrAt i = 0#16 := by
  simp only [State.thrAt, State.reset, List.getD, List.getElem?_replicate]
  split <;> rfl

theorem State.Inv.reset : State.reset.Inv where
  thr_length := List.length_replicate
  work_length r := by rw [State.work_reset]; exact List.length_replicate
  out_canonical := Memory.wf_reset
  out_in_window := fun _ hc => nomatch hc
  no_thresholds _ := ⟨rfl, State.thrAt_reset⟩
  thrN_legal := nofun
  thr_floor := State.thrAt_reset 0
  thr_above i _ := State.thrAt_reset i
  work_needs_thr r h := by rw [State.work_reset] at h; cases h
  bar_bound r h := by rw [State.work_reset] at h; cases h
  mid_masked := nofun
  out_masked := nofun
  no_blob _ := ⟨rfl, rfl⟩
  flight_legal := nofun

theorem State.Inv.writeThresholds {s : State} (h : s.Inv) (hi : s.inflight = none) {a b n : Word}
    (hc : LegalConfig a b n) : (s.writeThresholds a b n).Inv := by
  have hwork : ∀ r, (s.writeThresholds a b n).work r = (s.work r).invalidate := by intro r; cases r <;> rfl
  exact {
    thr_length := s.thr_length_writeThresholds a b n
    work_length := fun r => by rw [hwork]; exact h.work_length r
    out_canonical := h.out_canonical
    out_in_window := h.out_in_window
    no_thresholds := nofun
    thrN_legal := fun _ => ⟨hc.bars_pos, hc.bars_le⟩
    thr_floor := s.thrAt_writeThresholds a b n (by decide)
    thr_above := fun i (hni : n.toNat < i) => by
      rw [thrAt_writeThresholds_eq, thrEntry_above _ _ hni, ite_self]
    work_needs_thr := fun _ _ => rfl
    bar_bound := fun r hv => by rw [hwork] at hv; cases hv
    mid_masked := h.mid_masked
    out_masked := h.out_masked
    no_blob := h.no_blob
    flight_legal := fun c hfl => by cases hi.symm.trans hfl }

theorem State.Inv.buildTable {s : State} (h : s.Inv) (hi : s.inflight = none) (hv : s.thrValid = true)
    (sch : Scheme) (r : Range) : (s.buildTable sch r).Inv := by
  obtain ⟨hn, hn'⟩ := h.thrN_legal hv
  exact {
    thr_length := h.thr_length
    work_length := fun r' => by
      by_cases hr : r' = r
      · rw [hr, work_buildTable_self, List.length_map]
        exact s.bandEntries_length sch r
      · rw [work_buildTable_other s sch hr]
        exact h.work_length r'
    out_canonical := h.out_canonical
    out_in_window := h.out_in_window
    no_thresholds := h.no_thresholds
    thrN_legal := h.thrN_legal
    thr_floor := h.thr_floor
    thr_above := h.thr_above
    work_needs_thr := fun _ _ => hv
    bar_bound := fun r' hr' k => by
      by_cases hr : r' = r
      · rw [hr, at_buildTable_self]
        split
        · exact entryByte_bandEntry_lt hn hn' sch r k
        · exact hn
      · rw [work_buildTable_other s sch hr] at hr' ⊢
        exact h.bar_bound r' hr' k
    mid_masked := fun hB k hk => by
      by_cases hr : Range.mid = r
      · subst hr
        have hsch : sch = .variantB := hB
        show ((s.buildTable sch .mid).work .mid).at k = 0#8
        rw [at_buildTable_self, bandEntry, hsch, freqOf_variantB_mid hk]
        exact ite_self _
      · have hmid : (s.buildTable sch r).mid = s.mid := work_buildTable_other s sch hr
        rw [hmid] at hB ⊢
        exact h.mid_masked hB k hk
    out_masked := h.out_masked
    no_blob := h.no_blob
    flight_legal := fun c hfl => by cases hi.symm.trans hfl }

/-- The bytes of OUT that come from the mid table (R85). -/
theorem State.outAt_serialize_mid {s : State} (hlow : s.low.data.length = 256) (hmid : s.mid.data.length = 256)
    (sch : Scheme) {k : Nat} (hk : 256 ≤ k) (hk' : k < 512) : (s.serialize sch).outAt k = s.mid.at (k - 256) := by
  rw [outAt, serialize_out, Memory.read_ofBytes_inside, List.getD_append, List.getD_append_right, hlow]
  · rfl
  · omega
  · rw [List.length_append]; omega
  · simp only [List.length_append]; omega

theorem State.Inv.serialize {s : State} (h : s.Inv) (hi : s.inflight = none) {sch : Scheme}
    (hsch : s.mid.scheme = sch) : (s.serialize sch).Inv := by
  have hlow : s.low.data.length = 256 := h.work_length .low
  have hmid : s.mid.data.length = 256 := h.work_length .mid
  have hhigh : s.high.data.length = 256 := h.work_length .high
  exact {
    thr_length := h.thr_length
    work_length := h.work_length
    out_canonical := s.serialize_out_wf sch
    out_in_window := fun c hc => by
      have hc := Memory.mem_ofBytes_addr hc
      simp only [List.length_append, hlow, hmid, hhigh] at hc
      exact hc
    no_thresholds := h.no_thresholds
    thrN_legal := h.thrN_legal
    thr_floor := h.thr_floor
    thr_above := h.thr_above
    work_needs_thr := h.work_needs_thr
    bar_bound := h.bar_bound
    mid_masked := h.mid_masked
    out_masked := fun hB k hk hk' => by
      rw [outAt_serialize_mid hlow hmid sch (by omega) hk']
      exact h.mid_masked (hsch.trans hB) _ (by omega)
    no_blob := nofun
    flight_legal := fun c hfl => by cases hi.symm.trans hfl }

/-- RUN's three tables. -/
theorem State.Inv.buildAll {s : State} (h : s.Inv) (hi : s.inflight = none) (hv : s.thrValid = true)
    (sch : Scheme) : (s.buildAll sch).Inv :=
  ((h.buildTable hi hv sch .low).buildTable hi hv sch .mid).buildTable hi hv sch .high

/-- A write of RESULT and the flags, which no invariant reads. -/
theorem sameTables_completeResolve (c : InFlight) (s : State) : SameTables s (completeResolve c s) := by
  constructor <;> rfl

theorem sameTables_completeQfreq (c : InFlight) (s : State) : SameTables s (completeQfreq c s) := by
  constructor <;> rfl

theorem State.finish_writeThresholds (s : State) (a b n : Word) :
    (s.writeThresholds a b n).finish = s.finish.writeThresholds a b n := rfl

theorem State.finish_buildTable (s : State) (sch : Scheme) (r : Range) :
    (s.buildTable sch r).finish = s.finish.buildTable sch r := rfl

theorem State.finish_buildAll (s : State) (sch : Scheme) : (s.buildAll sch).finish = s.finish.buildAll sch := by
  simp only [buildAll, finish_buildTable]

theorem State.finish_serialize (s : State) (sch : Scheme) : (s.serialize sch).finish = s.finish.serialize sch := rfl

theorem State.buildAll_mid_scheme (s : State) (sch : Scheme) : (s.buildAll sch).mid.scheme = sch := by
  simp [buildAll]

/-- A completion is its operation on a state with nothing in flight. -/
theorem State.Inv.engineTurn {s : State} (h : s.Inv) : s.engineTurn.Inv := by
  obtain ⟨-, ht⟩ | ⟨c, hc, ⟨hop, ht⟩ | ⟨hop, ht⟩ | ⟨hop, ht⟩ | ⟨hop, ht⟩ | ⟨hop, ht⟩ | ⟨hop, ht⟩⟩ :=
    s.engineTurn_cases
  · rw [ht]; exact h
  all_goals
    have hlegal := h.flight_legal c hc
    simp only [FlightLegal, hop] at hlegal
    rw [ht]
  · rw [State.finish_writeThresholds]
    exact h.finish.writeThresholds rfl hlegal
  · rw [State.finish_buildTable]
    exact h.finish.buildTable rfl hlegal.2 _ _
  · rw [State.finish_serialize]
    exact h.finish.serialize rfl (hlegal.2 .mid .low)
  · rw [State.finish_serialize, State.finish_buildAll, State.finish_writeThresholds]
    have hthr := h.finish.writeThresholds rfl hlegal.1
    exact (hthr.buildAll rfl rfl _).serialize rfl (State.buildAll_mid_scheme _ _)
  · exact h.of_sameTables (sameTables_completeResolve c s) nofun
  · exact h.of_sameTables (sameTables_completeQfreq c s) nofun

/-- Settles O52: a step is the engine's turn, a reset, or keeps the tables, and each of them keeps a state good. -/
theorem everyStepKeepsTheStateGood : Obligations.EveryStepKeepsTheStateGood := by
  intro s t h hstep
  obtain ⟨rest, -, rfl⟩ | ⟨rest, resp, -, rfl⟩ | hk := step_effect hstep
  · exact (h.keepsTables ((sameTables_pending s rest).keeps rfl)).engineTurn
  · exact State.Inv.reset.of_sameTables (by constructor <;> rfl) nofun
  · exact h.keepsTables hk

end Sys2Proof.Machine
end

section
/-! What the host sees of the state: STATUS, the reserved addresses, and the configuration registers; where OUT changes; and
the reset state. -/

namespace Sys2Proof.Machine

/-! ### STATUS (R28) -/

theorem getLsbD_bitAt (b : Bool) (i j : Nat) : (bitAt b i).getLsbD j = (decide (j < 32) && decide (i = j) && b) := by
  rw [bitAt, BitVec.getLsbD_shiftLeft, BitVec.getLsbD_setWidth, BitVec.getLsbD_ofBool]
  by_cases hij : i = j
  · subst hij; simp
  · have : i < j → 0 < j - i := by omega
    grind

/-- The bits of STATUS. -/
theorem State.getLsbD_status (s : State) (j : Nat) (hj : j < 32) : s.status.getLsbD j =
    (decide (0 = j) && s.inflight.isSome || decide (1 = j) && s.thrValid || decide (2 = j) && s.low.valid ||
      decide (3 = j) && s.mid.valid || decide (4 = j) && s.high.valid || decide (5 = j) && s.outValid ||
      decide (6 = j) && s.unreach || decide (7 = j) && s.clampHit ||
      !decide (j < 8) && s.err.code.getLsbD (j - 8) ||
      decide (12 = j) && (s.outValid && schemeBit s.outScheme)) := by
  simp only [status, BitVec.getLsbD_or, getLsbD_bitAt, BitVec.getLsbD_shiftLeft, BitVec.getLsbD_setWidth, hj]
  have h32 : j - 8 < 32 := by omega
  simp [h32]

/-- ERR stands in bits 11:8 (R28). -/
theorem State.status_err_field (s : State) : s.status.extractLsb' 8 4 = s.err.code := by
  ext k hk
  rw [BitVec.getElem_extractLsb', s.getLsbD_status (8 + k) (by omega)]
  have hbits : ∀ i, i < 8 → decide (i = 8 + k) = false := fun i hi => decide_eq_false (by omega)
  have htop : decide (12 = 8 + k) = false := decide_eq_false (by omega)
  simp [hbits, htop, hk]

/-- The numerals of the error table (R170). -/
theorem ErrCode.code_toNat (e : ErrCode) : e.code.toNat =
    (match e with
    | .noError => 0
    | .cfgRange => 1
    | .cfgMinZero => 2
    | .cfgMinGeMax => 3
    | .cfgNumBars => 4
    | .cfgScheme => 5
    | .seqNoThr => 6
    | .seqIncomplete => 7
    | .cmdIllegal => 8
    | .cmdBusy => 9
    | .busAccess => 10) := by
  cases e <;> rfl

theorem schemeBit_eq_true_iff (sch : Scheme) : schemeBit sch = true ↔ sch = .variantB := by
  cases sch <;> simp [schemeBit]

/-- Bits 31:13 of STATUS are reserved (R28). -/
theorem State.status_reserved (s : State) : s.status.extractLsb' 13 19 = 0#19 := by
  ext k hk
  rw [BitVec.getElem_extractLsb', s.getLsbD_status (13 + k) (by omega)]
  have hbits : ∀ i, i < 13 → decide (i = 13 + k) = false := fun i hi => decide_eq_false (by omega)
  have hcode : s.err.code.getLsbD (13 + k - 8) = false := BitVec.getLsbD_of_ge _ _ (by omega)
  simp [hbits, hcode]

/-- Settles O38: each field is read off the bits of STATUS. -/
theorem statusFieldsStandAtTheirBits : Obligations.StatusFieldsStandAtTheirBits := by
  intro s
  have hcode : s.status.toNat / 2 ^ 8 % 2 ^ 4 = s.err.code.toNat := by
    rw [← s.status_err_field, BitVec.extractLsb'_toNat, Nat.shiftRight_eq_div_pow]
  refine ⟨?_, ?_, ?_, ?_, ?_, ?_, ?_, ?_, s.status_err_field, hcode.trans s.err.code_toNat, ?_, s.status_reserved⟩
  case refine_9 =>
    rw [s.getLsbD_status 12 (by decide)]
    simp [schemeBit_eq_true_iff]
  all_goals rw [s.getLsbD_status _ (by decide)]; simp

/-! ### Reserved addresses (R27, R58) -/

/-- A word that holds no register and no threshold reads 0. -/
theorem State.wordAt_reserved (s : State) {a : Nat}
    (h : a < 4 ∨ (0x20 ≤ a ∧ a < 0x1000) ∨ 0x1404 ≤ a) : s.wordAt a = 0#32 := by
  have hthr : ¬ (thrBase ≤ a ∧ a < thrEnd) := by rw [thrBase, thrEnd]; omega
  unfold wordAt addrStatus addrMinFreq addrMaxFreq addrNumBars addrScheme addrResult addrThrN
  rw [if_neg (by omega), if_neg (by omega), if_neg (by omega), if_neg (by omega), if_neg (by omega),
    if_neg (by omega), if_neg (by omega), if_neg hthr]

/-- Settles O33: below the OUT window the byte is one of a reserved word, and above it nothing is mapped. -/
theorem reservedAddressesReadZero : Obligations.ReservedAddressesReadZero := by
  intro s a h
  unfold State.byteAt narrowBase outEnd
  split
  · next hlt =>
    rw [s.wordAt_reserved (by omega)]
    exact BitVec.extractLsb'_zero
  · next hge => rw [if_neg (by omega)]

/-! ### Configuration registers (R26) -/

/-- A write outside CMD stores its value in the configuration register at its address, if there is one. -/
theorem State.writeRegister_eq (s : State) (a : Nat) (v : Word) : s.writeRegister a v =
    { s with
      minFreq := if a = 0x08 then v else s.minFreq
      maxFreq := if a = 0x0C then v else s.maxFreq
      numBars := if a = 0x10 then v else s.numBars
      scheme := if a = 0x14 then v else s.scheme } := by
  unfold writeRegister addrMinFreq addrMaxFreq addrNumBars addrScheme
  split_ifs <;> simp_all

/-- A legal 4-byte write outside CMD, through the step. -/
theorem step_writeRegister {s : State} {a : BitVec 16} {v : Word} {rest : List Event}
    (hp : s.pending = .bus (.write a .w4 v) :: rest) (ha : a.toNat ≠ addrCmd) (halign : a.toNat % 4 = 0) :
    step s = .next (({ s with pending := rest }.writeRegister a.toNat v).respond (.okay none)) := by
  have hl : (Transaction.write a .w4 v).legal = true := by
    simp [Transaction.legal, Transaction.addr, Transaction.width, Width.bytes, halign]
  rw [step_bus hp, State.transact, if_pos hl, State.legalTransact, if_neg ha]

/-- A completion reads neither the configuration registers nor the inputs nor the last answer: it uses the snapshot of its
record (R38). -/
theorem completeRecord_configuration (c : InFlight) (s : State) (a b n sch : Word) (es : List Event)
    (r : Option Response) : completeRecord c
        { s with minFreq := a, maxFreq := b, numBars := n, scheme := sch, pending := es, response := r } =
      { completeRecord c s with
        minFreq := a, maxFreq := b, numBars := n, scheme := sch, pending := es, response := r } := by
  rw [completeRecord, completeRecord]
  cases c.op <;> rfl

theorem State.engineTurn_configuration (s : State) (a b n sch : Word) (es : List Event) (r : Option Response) :
    { s with minFreq := a, maxFreq := b, numBars := n, scheme := sch, pending := es, response := r }.engineTurn =
      { s.engineTurn with minFreq := a, maxFreq := b, numBars := n, scheme := sch, pending := es, response := r } := by
  obtain hc | ⟨c, hc⟩ := Option.eq_none_or_eq_some s.inflight
  · rw [engineTurn_idle hc]
    exact engineTurn_idle hc
  · rw [engineTurn_flight hc]
    refine Eq.trans ?_ (completeRecord_configuration c s a b n sch es r)
    exact engineTurn_flight hc

/-- Settles O31: the write stores one register, and the completion does not read it. -/
theorem configurationWriteNeverAffectsTheCommandInFlight :
    Obligations.ConfigurationWriteNeverAffectsTheCommandInFlight := by
  intro s a v rest ha hp
  have hstep := step_writeRegister hp (by rw [addrCmd]; omega) (by omega)
  rw [State.writeRegister_eq] at hstep
  exact ⟨_, hstep, rfl, s.engineTurn_configuration _ _ _ _ _ _⟩

/-! ### OUT (R35) -/

/-- The engine's turn changes OUT only where it completes a COMMIT or a RUN. -/
theorem State.engineTurn_out {s : State} (h : s.engineTurn.out ≠ s.out) :
    ∃ c, s.inflight = some c ∧ (c.op = .commit ∨ c.op = .run) := by
  obtain ⟨-, ht⟩ | ⟨c, hc, ⟨-, ht⟩ | ⟨-, ht⟩ | ⟨hop, -⟩ | ⟨hop, -⟩ | ⟨-, ht⟩ | ⟨-, ht⟩⟩ := s.engineTurn_cases
  · rw [ht] at h; exact absurd rfl h
  · rw [ht] at h; exact absurd rfl h
  · rw [ht] at h; exact absurd rfl h
  · exact ⟨c, hc, .inl hop⟩
  · exact ⟨c, hc, .inr hop⟩
  · rw [ht] at h; exact absurd rfl h
  · rw [ht] at h; exact absurd rfl h

/-- Settles O30: of the three kinds of step, one that keeps the tables keeps OUT, and an engine's turn that changes it completes
a COMMIT or a RUN. -/
theorem blobChangesOnlyAtCommitRunOrReset : Obligations.BlobChangesOnlyAtCommitRunOrReset := by
  intro s t hstep hout
  obtain ⟨rest, hp, rfl⟩ | ⟨rest, resp, hp, -⟩ | hk := step_effect hstep
  · obtain ⟨c, hc, hop⟩ := State.engineTurn_out (s := { s with pending := rest }) hout
    exact .inl ⟨c, hc, hop, hp.imp id fun hp => ⟨rest, hp⟩⟩
  · exact .inr (hp.imp (fun hp => ⟨rest, hp⟩) fun hp => ⟨rest, hp⟩)
  · exact absurd hk.out hout

/-! ### The reset state (R39, R190) -/

/-- Settles O11: item by item, the tables by what a table after reset reads. -/
theorem resetStateIsAllZero : Obligations.ResetStateIsAllZero := by
  refine ⟨rfl, rfl, rfl, rfl, rfl, rfl, rfl, State.thrAt_reset, List.length_replicate, fun r => ?_,
    rfl, rfl, fun _ => rfl, rfl, rfl, rfl, rfl⟩
  rw [State.work_reset]
  exact ⟨rfl, rfl, List.length_replicate, WorkTable.at_reset⟩

theorem State.ThrInv.reset : State.reset.ThrInv where
  floor := nofun
  sorted := nofun
  first_pos := nofun
  flight := nofun

/-- Settles O51: with nothing valid and nothing in flight, only the sizes and the zero entries are left to show. -/
theorem resetStateIsGood : Obligations.ResetStateIsGood := ⟨State.Inv.reset, State.ThrInv.reset⟩

end Sys2Proof.Machine
end

section
/-! Rounding to binary64 (R104): `round64` of a quotient is its nearest representable value, ties to even, and what that
says of the order of rounded values. -/

namespace Sys2Proof.Machine

/-! ### Representable values -/

theorem representable_mul_two_pow {m : Nat} (h : m < 2 ^ 53) (k : Nat) : Representable (m * 2 ^ k) := ⟨m, k, rfl, h⟩

/-- A significand that rounding carried to `2^53` is representable too. -/
theorem representable_of_le {h : Nat} (hle : h ≤ 2 ^ 53) (k : Nat) : Representable (h * 2 ^ k) := by
  obtain hlt | rfl := hle.lt_or_eq
  · exact representable_mul_two_pow hlt k
  · exact ⟨1, 53 + k, by rw [pow_add, one_mul], by norm_num⟩

/-- Between neighbouring multiples of the spacing there is no representable value. -/
theorem Representable.gap {z s k : Nat} (hz : Representable z) (hs : k = 0 ∨ 2 ^ 52 ≤ s) :
    z ≤ s * 2 ^ k ∨ (s + 1) * 2 ^ k ≤ z := by
  obtain ⟨m, j, rfl, hm⟩ := hz
  obtain hkj | hjk := le_or_gt k j
  · have hsplit : m * 2 ^ j = m * 2 ^ (j - k) * 2 ^ k := by
      rw [mul_assoc, ← pow_add, Nat.sub_add_cancel hkj]
    rw [hsplit]
    exact (le_or_gt (m * 2 ^ (j - k)) s).imp (Nat.mul_le_mul_right _) (Nat.mul_le_mul_right _)
  · have hs : 2 ^ 52 ≤ s := hs.resolve_left (by omega)
    left
    calc m * 2 ^ j ≤ 2 ^ 53 * 2 ^ j := Nat.mul_le_mul_right _ hm.le
      _ = 2 ^ 52 * 2 ^ (j + 1) := by ring
      _ ≤ s * 2 ^ k := Nat.mul_le_mul hs (Nat.pow_le_pow_right (by norm_num) hjk)

/-- The significand of `h * 2^k` is even where `h` is, and `h` has 53 bits, or fewer in the lowest binade, or is the carry. -/
theorem significand_even {h k : Nat} (heven : h % 2 = 0) (hle : h ≤ 2 ^ 53) (hge : k = 0 ∨ 2 ^ 52 ≤ h) :
    h * 2 ^ k / 2 ^ ((h * 2 ^ k).log2 - 52) % 2 = 0 := by
  obtain rfl | hpos := Nat.eq_zero_or_pos h
  · simp
  obtain hlt | rfl := hle.lt_or_eq
  · have hlog : (h * 2 ^ k).log2 - 52 = k := by
      obtain rfl | h52 := hge
      · have := (Nat.log2_lt hpos.ne').mpr hlt
        rw [pow_zero, mul_one]
        omega
      · have hlog : (h * 2 ^ k).log2 = 52 + k := by
          rw [Nat.log2_eq_iff (by positivity), pow_add, show 52 + k + 1 = 53 + k by omega, pow_add]
          exact ⟨Nat.mul_le_mul_right _ h52, Nat.mul_lt_mul_of_pos_right hlt (by positivity)⟩
        omega
    rwa [hlog, Nat.mul_div_cancel _ (by positivity)]
  · rw [← pow_add, Nat.log2_two_pow, Nat.pow_div (by omega) (by norm_num), show 53 + k - (53 + k - 52) = 52 by omega]

/-! ### Order of rounded values -/

/-- Of two neighbouring representable values, the nearer one is the rounded value, and at a tie the even one. -/
theorem isNearestEven_of_neighbours {y a b : Nat} {v : ℝ} (ha : Representable a) (hb : Representable b)
    (hgap : ∀ z, Representable z → z ≤ a ∨ b ≤ z) (hav : (a : ℝ) ≤ v) (hvb : v ≤ b)
    (hy : y = a ∧ v - a ≤ b - v ∨ y = b ∧ b - v ≤ v - a)
    (heven : v - a = b - v → y / 2 ^ (y.log2 - 52) % 2 = 0) : IsNearestEven y v := by
  have hgap : ∀ z : Nat, Representable z → (z : ℝ) ≤ a ∨ (b : ℝ) ≤ z := fun z hz =>
    (hgap z hz).imp Nat.cast_le.mpr Nat.cast_le.mpr
  obtain ⟨rfl, hnear⟩ | ⟨rfl, hnear⟩ := hy
  · have hdist : |v - y| = v - y := abs_of_nonneg (by linarith)
    refine ⟨ha, fun z hz => ?_, fun z hz hne htie => heven ?_⟩
    · obtain hzy | hbz := hgap z hz
      · rw [hdist]; exact le_trans (by linarith) (le_abs_self _)
      · rw [hdist]; exact le_trans (by linarith) (neg_le_abs _)
    · rw [hdist] at htie
      obtain hzy | hbz := hgap z hz
      · rw [abs_of_nonneg (by linarith)] at htie
        exact absurd (Nat.cast_injective (R := ℝ) (by linarith)) hne
      · rw [abs_of_nonpos (by linarith)] at htie
        linarith
  · have hdist : |v - y| = y - v := by rw [abs_of_nonpos (by linarith), neg_sub]
    refine ⟨hb, fun z hz => ?_, fun z hz hne htie => heven ?_⟩
    · obtain hza | hyz := hgap z hz
      · rw [hdist]; exact le_trans (by linarith) (le_abs_self _)
      · rw [hdist]; exact le_trans (by linarith) (neg_le_abs _)
    · rw [hdist] at htie
      obtain hza | hyz := hgap z hz
      · rw [abs_of_nonneg (by linarith)] at htie
        linarith
      · rw [abs_of_nonpos (by linarith)] at htie
        exact absurd (Nat.cast_injective (R := ℝ) (by linarith)) hne

/-- A representable value that is not above `v` is not above the rounded value. -/
theorem IsNearestEven.ge_of_representable {y z : Nat} {v : ℝ} (h : IsNearestEven y v) (hz : Representable z)
    (hzv : (z : ℝ) ≤ v) : z ≤ y := by
  by_contra! hlt
  have hlt : (y : ℝ) < z := Nat.cast_lt.mpr hlt
  have hnear := h.nearest z hz
  rw [abs_of_nonneg (by linarith), abs_of_nonneg (by linarith)] at hnear
  linarith

/-- A representable value that is not below `v` is not below the rounded value. -/
theorem IsNearestEven.le_of_representable {y z : Nat} {v : ℝ} (h : IsNearestEven y v) (hz : Representable z)
    (hvz : v ≤ z) : y ≤ z := by
  by_contra! hlt
  have hlt : (z : ℝ) < y := Nat.cast_lt.mpr hlt
  have hnear := h.nearest z hz
  rw [abs_of_nonpos (by linarith), abs_of_nonpos (by linarith)] at hnear
  linarith

/-- Rounding does not move a representable value. -/
theorem IsNearestEven.eq_of_representable {y z : Nat} (h : IsNearestEven y z) (hz : Representable z) : y = z :=
  (h.le_of_representable hz le_rfl).antisymm (h.ge_of_representable hz le_rfl)

/-- Of two points the upper one is no farther from `v`: `v` is not below their midpoint. -/
theorem abs_sub_upper_le_iff {a b v : ℝ} (hab : a < b) : |v - b| ≤ |v - a| ↔ a + b ≤ 2 * v := by
  rw [← sq_le_sq]
  constructor <;> intro h <;> nlinarith

/-- Of two points the lower one is no farther from `v`: `v` is not above their midpoint. -/
theorem abs_sub_lower_le_iff {a b v : ℝ} (hab : a < b) : |v - a| ≤ |v - b| ↔ 2 * v ≤ a + b := by
  rw [← sq_le_sq]
  constructor <;> intro h <;> nlinarith

/-- Rounding keeps a strict order, weakly. -/
theorem IsNearestEven.le_of_lt {y y' : Nat} {v v' : ℝ} (h : IsNearestEven y v) (h' : IsNearestEven y' v')
    (hlt : v < v') : y ≤ y' := by
  by_contra! hgt
  have hgt : (y' : ℝ) < y := Nat.cast_lt.mpr hgt
  have hv := (abs_sub_upper_le_iff hgt).mp (h.nearest y' h'.representable)
  have hv' := (abs_sub_lower_le_iff hgt).mp (h'.nearest y h.representable)
  linarith

/-- What both ends of an interval round to, every value between them rounds to. -/
theorem IsNearestEven.of_between {y : Nat} {lo hi v : ℝ} (hlo : IsNearestEven y lo) (hhi : IsNearestEven y hi)
    (hlv : lo ≤ v) (hvh : v ≤ hi) : IsNearestEven y v := by
  have hbelow : ∀ z, Representable z → z < y → (z : ℝ) + y ≤ 2 * lo := fun z hz hzy =>
    (abs_sub_upper_le_iff (Nat.cast_lt.mpr hzy)).mp (hlo.nearest z hz)
  have habove : ∀ z, Representable z → y < z → 2 * hi ≤ (y : ℝ) + z := fun z hz hyz =>
    (abs_sub_lower_le_iff (Nat.cast_lt.mpr hyz)).mp (hhi.nearest z hz)
  refine ⟨hlo.representable, fun z hz => ?_, fun z hz hne htie => ?_⟩
  · obtain hzy | rfl | hyz := lt_trichotomy z y
    · rw [abs_sub_upper_le_iff (Nat.cast_lt.mpr hzy)]
      linarith [hbelow z hz hzy]
    · exact le_rfl
    · rw [abs_sub_lower_le_iff (Nat.cast_lt.mpr hyz)]
      linarith [habove z hz hyz]
  · obtain hzy | hyz := hne.lt_or_gt
    · have hmid := (abs_sub_lower_le_iff (Nat.cast_lt.mpr hzy)).mp htie.le
      obtain rfl : lo = v := by linarith [hbelow z hz hzy]
      exact hlo.ties_even z hz hne htie
    · have hmid := (abs_sub_upper_le_iff (Nat.cast_lt.mpr hyz)).mp htie.le
      obtain rfl : hi = v := by linarith [habove z hz hyz]
      exact hhi.ties_even z hz hne htie

/-! ### `round64` -/

/-- The quotient rounded to the nearest whole number, ties to even. -/
def halfEven (num den : Nat) : Nat :=
  if 2 * (num % den) < den then num / den
  else if den < 2 * (num % den) then num / den + 1
  else if num / den % 2 = 0 then num / den
  else num / den + 1

/-- `round64` rounds the quotient in units of the spacing. -/
theorem round64_eq (num den : Nat) : round64 num den =
    halfEven num (den * 2 ^ ((num / den).log2 - 52)) * 2 ^ ((num / den).log2 - 52) := by
  unfold round64 halfEven
  dsimp only
  split_ifs <;> rfl

/-- A quotient rounds down, or up, to a neighbour that is no farther than the other one, and even at a tie. -/
theorem halfEven_cases (num den : Nat) :
    (halfEven num den = num / den ∧ 2 * (num % den) ≤ den ∧ (2 * (num % den) = den → num / den % 2 = 0)) ∨
    (halfEven num den = num / den + 1 ∧ den ≤ 2 * (num % den) ∧
      (2 * (num % den) = den → (num / den + 1) % 2 = 0)) := by
  unfold halfEven
  split_ifs with hdown hup heven
  · exact .inl ⟨rfl, hdown.le, by omega⟩
  · exact .inr ⟨rfl, hup.le, by omega⟩
  · exact .inl ⟨rfl, by omega, fun _ => heven⟩
  · exact .inr ⟨rfl, by omega, fun _ => by omega⟩

/-- In units of the spacing a quotient has 53 bits, or fewer in the lowest binade. -/
theorem significand_bounds (f : Nat) :
    f / 2 ^ (f.log2 - 52) < 2 ^ 53 ∧ (f.log2 - 52 = 0 ∨ 2 ^ 52 ≤ f / 2 ^ (f.log2 - 52)) := by
  have hlt : f < 2 ^ (f.log2 + 1) := Nat.lt_log2_self
  constructor
  · rw [Nat.div_lt_iff_lt_mul (by positivity), ← pow_add]
    exact hlt.trans_le (Nat.pow_le_pow_right (by norm_num) (by omega))
  · obtain hk | hk := Nat.eq_zero_or_pos (f.log2 - 52)
    · exact .inl hk
    · have hf : f ≠ 0 := by rintro rfl; simp at hk
      right
      rw [Nat.le_div_iff_mul_le (by positivity), ← pow_add, show 52 + (f.log2 - 52) = f.log2 by omega]
      exact Nat.log2_self_le hf

/-- `round64` of a quotient is the nearest representable value, ties to even (R104). -/
theorem round64_isNearestEven (num : Nat) {den : Nat} (hden : 0 < den) :
    IsNearestEven (round64 num den) ((num : ℝ) / den) := by
  obtain ⟨hlt, hge⟩ := significand_bounds (num / den)
  rw [round64_eq]
  generalize (num / den).log2 - 52 = k at *
  rw [Nat.div_div_eq_div_mul] at hlt hge
  have hcases := halfEven_cases num (den * 2 ^ k)
  have hr := Nat.mod_lt num (show 0 < den * 2 ^ k by positivity)
  have hv : (num : ℝ) / den = (num / (den * 2 ^ k) * 2 ^ k : ℕ) + ((num % (den * 2 ^ k) : ℕ) : ℝ) / den := by
    have hmod : (num : ℝ) = (den * 2 ^ k * (num / (den * 2 ^ k)) + num % (den * 2 ^ k) : ℕ) := by
      rw [Nat.div_add_mod]
    rw [hmod]
    push_cast
    field_simp
  rw [hv]
  generalize num / (den * 2 ^ k) = s, num % (den * 2 ^ k) = r, halfEven num (den * 2 ^ k) = h at *
  have hr_lt : (r : ℝ) / den < 2 ^ k := by
    rw [div_lt_iff₀' (Nat.cast_pos.mpr hden)]
    exact_mod_cast hr
  have hr_nonneg : (0 : ℝ) ≤ (r : ℝ) / den := by positivity
  have hdown : 2 * r ≤ den * 2 ^ k ↔ 2 * ((r : ℝ) / den) ≤ 2 ^ k := by
    rw [mul_div_assoc', div_le_iff₀' (Nat.cast_pos.mpr hden)]
    exact_mod_cast Iff.rfl
  have hup : den * 2 ^ k ≤ 2 * r ↔ (2 : ℝ) ^ k ≤ 2 * ((r : ℝ) / den) := by
    rw [mul_div_assoc', le_div_iff₀' (Nat.cast_pos.mpr hden)]
    exact_mod_cast Iff.rfl
  have htop : (((s + 1) * 2 ^ k : ℕ) : ℝ) = (s * 2 ^ k : ℕ) + 2 ^ k := by push_cast; ring
  refine isNearestEven_of_neighbours (representable_mul_two_pow hlt k) (representable_of_le hlt k)
    (fun z hz => hz.gap hge) (by linarith) (by linarith) ?_ fun htie => ?_
  · obtain ⟨rfl, hle, -⟩ | ⟨rfl, hle, -⟩ := hcases
    · have := hdown.mp hle
      exact .inl ⟨rfl, by linarith⟩
    · have := hup.mp hle
      exact .inr ⟨rfl, by linarith⟩
  · have hhalf : 2 * r = den * 2 ^ k :=
      le_antisymm (hdown.mpr (by linarith)) (hup.mpr (by linarith))
    obtain ⟨rfl, -, heven⟩ | ⟨rfl, -, heven⟩ := hcases
    · exact significand_even (heven hhalf) hlt.le hge
    · exact significand_even (heven hhalf) hlt (hge.imp id Nat.le_succ_of_le)

/-- `round64` does not decrease in the numerator. -/
theorem round64_mono {a b den : Nat} (hden : 0 < den) (hab : a ≤ b) : round64 a den ≤ round64 b den := by
  obtain rfl | hlt := hab.eq_or_lt
  · exact le_rfl
  · exact (round64_isNearestEven a hden).le_of_lt (round64_isNearestEven b hden)
      (div_lt_div_of_pos_right (Nat.cast_lt.mpr hlt) (Nat.cast_pos.mpr hden))

end Sys2Proof.Machine
end

section
/-! The power `pow64` (R104): its checked enclosures hold the real power, its exact fallback finds it, and so both round to
the value nearest the power. -/

namespace Sys2Proof.Machine

theorem unit64_pos : 0 < unit64 := by
  unfold unit64
  positivity

/-- 1.0 in units, cut into `p` fraction bits and the rest. -/
theorem unit64_eq_mul {p : Nat} (hp : p ≤ 1074) : unit64 = 2 ^ p * 2 ^ (1074 - p) := by
  rw [← pow_add, Nat.add_sub_cancel' hp, unit64]

/-! ### Fixed-point enclosures -/

/-- `lo` and `hi`, with `p` fraction bits, enclose `x`. -/
structure Encloses (p lo hi : Nat) (x : ℝ) : Prop where
  lower : (lo : ℝ) ≤ x * 2 ^ p
  upper : x * 2 ^ p ≤ hi

theorem le_ceilDiv_mul (n : Nat) {d : Nat} (hd : 0 < d) : n ≤ ceilDiv n d * d := by
  have hdiv := Nat.div_add_mod (n + d - 1) d
  have hmod := Nat.mod_lt (n + d - 1) hd
  rw [ceilDiv, mul_comm]
  omega

theorem climbSqrt_sq_ge {fuel n g h : Nat} (hc : climbSqrt fuel n g = some h) : n ≤ h * h := by
  induction fuel generalizing g with
  | zero => cases hc
  | succ fuel ih =>
    rw [climbSqrt] at hc
    split at hc
    · cases hc; assumption
    · exact ih hc

/-- The checked bounds of a square root enclose it. -/
theorem sqrtBounds_encloses {p lo hi lo' hi' : Nat} {b : ℝ} (hb : 0 ≤ b) (he : Encloses p lo hi b)
    (h : sqrtBounds p lo hi = some (lo', hi')) : Encloses p lo' hi' √b := by
  simp only [sqrtBounds] at h
  generalize newtonSqrt 64 (lo * 2 ^ p) ((lo + 2 ^ p) / 2 + 1) = root at h
  split at h
  next hsq =>
    split at h
    next g hclimb =>
      cases h
      have hroot : (√b * 2 ^ p) * (√b * 2 ^ p) = b * 2 ^ p * 2 ^ p := by
        rw [mul_mul_mul_comm, Real.mul_self_sqrt hb, mul_assoc]
      have hpos : (0 : ℝ) ≤ √b * 2 ^ p := by positivity
      constructor
      · refine (mul_self_le_mul_self_iff (Nat.cast_nonneg _) hpos).mpr ?_
        calc (lo' : ℝ) * lo' ≤ lo * 2 ^ p := by exact_mod_cast hsq
          _ ≤ b * 2 ^ p * 2 ^ p := by gcongr; exact he.lower
          _ = _ := hroot.symm
      · refine (mul_self_le_mul_self_iff hpos (Nat.cast_nonneg _)).mpr ?_
        calc (√b * 2 ^ p) * (√b * 2 ^ p) = b * 2 ^ p * 2 ^ p := hroot
          _ ≤ hi * 2 ^ p := by gcongr; exact he.upper
          _ ≤ (hi' : ℝ) * hi' := by exact_mod_cast climbSqrt_sq_ge hclimb
    · cases h
  · cases h

/-- Outward rounding keeps a product enclosed. -/
theorem Encloses.mul {p aLo aHi bLo bHi : Nat} {a b : ℝ} (ha : 0 ≤ a) (hb : 0 ≤ b) (hea : Encloses p aLo aHi a)
    (heb : Encloses p bLo bHi b) :
    Encloses p (aLo * bLo / 2 ^ p) (ceilDiv (aHi * bHi) (2 ^ p)) (a * b) := by
  have hprod : a * b * 2 ^ p * 2 ^ p = a * 2 ^ p * (b * 2 ^ p) := by ring
  have hp : (0 : ℝ) < 2 ^ p := by positivity
  constructor
  · refine le_of_mul_le_mul_right ?_ hp
    calc ((aLo * bLo / 2 ^ p : ℕ) : ℝ) * 2 ^ p ≤ aLo * bLo := by
          exact_mod_cast Nat.div_mul_le_self (aLo * bLo) (2 ^ p)
      _ ≤ a * 2 ^ p * (b * 2 ^ p) := by gcongr; exacts [hea.lower, heb.lower]
      _ = a * b * 2 ^ p * 2 ^ p := hprod.symm
  · refine le_of_mul_le_mul_right ?_ hp
    calc a * b * 2 ^ p * 2 ^ p = a * 2 ^ p * (b * 2 ^ p) := hprod
      _ ≤ aHi * bHi := by gcongr; exacts [hea.upper, heb.upper]
      _ ≤ (ceilDiv (aHi * bHi) (2 ^ p) : ℕ) * 2 ^ p := by
          exact_mod_cast le_ceilDiv_mul (aHi * bHi) (Nat.two_pow_pos p)

theorem rpow_sqrt_double {b : ℝ} (hb : 0 ≤ b) (x : ℝ) : √b ^ (2 * x) = b ^ x := by
  rw [Real.rpow_mul (Real.sqrt_nonneg b)]
  congr 1
  exact_mod_cast Real.sq_sqrt hb

/-- The loop's bounds enclose `a · b^(e/U)`. -/
theorem powLoop_encloses {p fuel aLo aHi bLo bHi e lo hi : Nat} {a b : ℝ} (ha : 0 ≤ a) (hb : 0 ≤ b)
    (hea : Encloses p aLo aHi a) (heb : Encloses p bLo bHi b)
    (h : powLoop p fuel aLo aHi bLo bHi e = some (lo, hi)) :
    Encloses p lo hi (a * b ^ ((e : ℝ) / unit64)) := by
  have hunit : (unit64 : ℝ) ≠ 0 := Nat.cast_ne_zero.mpr unit64_pos.ne'
  induction fuel generalizing aLo aHi bLo bHi e a b with
  | zero =>
    rw [powLoop] at h
    split at h
    next he => cases h; rwa [he, Nat.cast_zero, zero_div, Real.rpow_zero, mul_one]
    · cases h
  | succ fuel ih =>
    rw [powLoop] at h
    split at h
    next he => cases h; rwa [he, Nat.cast_zero, zero_div, Real.rpow_zero, mul_one]
    next =>
      split at h
      · cases h
      next lo' hi' hroot =>
        have her := sqrtBounds_encloses hb heb hroot
        split at h
        next hlt =>
          have hpow : b ^ ((e : ℝ) / unit64) = √b ^ (((2 * e : ℕ) : ℝ) / unit64) := by
            rw [← rpow_sqrt_double hb]; push_cast; ring_nf
          rw [hpow]
          exact ih ha (Real.sqrt_nonneg b) hea her h
        next hge =>
          have hpow : a * b ^ ((e : ℝ) / unit64) = a * √b * √b ^ (((2 * e - unit64 : ℕ) : ℝ) / unit64) := by
            have he : (e : ℝ) / unit64 * 2 = 1 + ((2 * e - unit64 : ℕ) : ℝ) / unit64 := by
              rw [Nat.cast_sub (Nat.le_of_not_lt hge), Nat.cast_mul, Nat.cast_ofNat]
              field_simp [hunit]
              ring
            rw [← rpow_sqrt_double hb, mul_comm 2, he,
              Real.rpow_add_of_nonneg (Real.sqrt_nonneg b) zero_le_one
                (div_nonneg (Nat.cast_nonneg _) (Nat.cast_nonneg _)), Real.rpow_one, mul_assoc]
          rw [hpow]
          exact ih (mul_nonneg ha (Real.sqrt_nonneg b)) (Real.sqrt_nonneg b) (hea.mul ha (Real.sqrt_nonneg b) her) her h

/-- The base with `p` fraction bits, rounded down and up. -/
theorem encloses_base {u p j : Nat} (hu : u = 2 ^ p * 2 ^ j) (q : Nat) :
    Encloses p (q / 2 ^ j) (ceilDiv q (2 ^ j)) ((q : ℝ) / u) := by
  have hj : (0 : ℝ) < 2 ^ j := by positivity
  have hscale : (q : ℝ) / u * 2 ^ p * 2 ^ j = q := by
    rw [hu]; push_cast; field_simp
  constructor
  · refine le_of_mul_le_mul_right ?_ hj
    rw [hscale]
    exact_mod_cast Nat.div_mul_le_self q (2 ^ j)
  · refine le_of_mul_le_mul_right ?_ hj
    rw [hscale]
    exact_mod_cast le_ceilDiv_mul q (Nat.two_pow_pos j)

/-! ### The power -/

/-- The real power that `pow64` rounds, in units: `U · (q/U)^(e/U)`. -/
noncomputable def realPow (u q e : Nat) : ℝ := (u : ℝ) * ((q : ℝ) / u) ^ ((e : ℝ) / u)

theorem realPow_eq_mul {u p j : Nat} (hu : u = 2 ^ p * 2 ^ j) (q e : Nat) :
    realPow u q e = ((q : ℝ) / u) ^ ((e : ℝ) / u) * 2 ^ p * 2 ^ j := by
  rw [realPow, mul_assoc, mul_comm]
  congr 1
  exact_mod_cast hu

/-- Where both ends of an enclosure round alike, the power rounds to that value too. -/
theorem powEnclosed_isNearestEven {p q e y : Nat} (hp : p ≤ 1074) (h : powEnclosed p q e = some y) :
    IsNearestEven y (realPow unit64 q e) := by
  rw [powEnclosed] at h
  split at h
  · cases h
  next lo hi hloop =>
    split at h
    next hround =>
      cases h
      have hunit := unit64_eq_mul hp
      have hbase : Encloses p (q / 2 ^ (1074 - p)) (ceilDiv q (2 ^ (1074 - p))) ((q : ℝ) / unit64) :=
        encloses_base hunit q
      have hone : Encloses p (2 ^ p) (2 ^ p) 1 := by constructor <;> simp
      have hpow := powLoop_encloses zero_le_one
        (div_nonneg (Nat.cast_nonneg q) (Nat.cast_nonneg unit64)) hone hbase hloop
      rw [one_mul] at hpow
      have hscale := realPow_eq_mul hunit q e
      have hlo := round64_isNearestEven (lo * 2 ^ (1074 - p)) one_pos
      have hhi := round64_isNearestEven (hi * 2 ^ (1074 - p)) one_pos
      rw [← hround] at hhi
      refine hlo.of_between hhi ?_ ?_
      · rw [hscale, Nat.cast_one, div_one, Nat.cast_mul, Nat.cast_pow, Nat.cast_ofNat]
        gcongr
        exact hpow.lower
      · rw [hscale, Nat.cast_one, div_one, Nat.cast_mul, Nat.cast_pow, Nat.cast_ofNat]
        gcongr
        exact hpow.upper
    · cases h

theorem powFirst_isNearestEven {ps : List Nat} {q e y : Nat} (hps : ∀ p ∈ ps, p ≤ 1074)
    (h : powFirst ps q e = some y) : IsNearestEven y (realPow unit64 q e) := by
  induction ps with
  | nil => cases h
  | cons p ps ih =>
    rw [List.forall_mem_cons] at hps
    rw [powFirst] at h
    split at h
    next hp => cases h; exact powEnclosed_isNearestEven hps.1 hp
    · exact ih hps.2 h

/-- The comparison of natural numbers by which the exact fallback finds `⌊2v⌋`. -/
theorem realPow_pow {u : Nat} (hu : 0 < u) (q e : Nat) :
    (2 * realPow u q e) ^ u * (u : ℝ) ^ e = 2 ^ u * (u : ℝ) ^ u * (q : ℝ) ^ e := by
  have hu' : (u : ℝ) ≠ 0 := by positivity
  have hpow : (((q : ℝ) / u) ^ ((e : ℝ) / u)) ^ u = ((q : ℝ) / u) ^ e := by
    rw [← Real.rpow_natCast, ← Real.rpow_mul (by positivity), div_mul_cancel₀ _ hu', Real.rpow_natCast]
  rw [realPow, mul_pow, mul_pow, hpow, div_pow]
  field_simp

/-- The power is at most `q + U`, the search bound of the exact fallback. -/
theorem realPow_le {u q e : Nat} (hu : 0 < u) (he : e ≤ u) : realPow u q e ≤ q + u := by
  have hu' : (0 : ℝ) < u := Nat.cast_pos.mpr hu
  have he' : (e : ℝ) / u ≤ 1 := (div_le_one hu').mpr (Nat.cast_le.mpr he)
  obtain hqu | huq := le_total ((q : ℝ) / u) 1
  · have hpow := Real.rpow_le_one (by positivity) hqu (show (0 : ℝ) ≤ (e : ℝ) / u by positivity)
    calc realPow u q e ≤ u * 1 := by unfold realPow; gcongr
      _ ≤ q + u := by rw [mul_one]; exact le_add_of_nonneg_left (Nat.cast_nonneg q)
  · have hpow := Real.rpow_le_rpow_of_exponent_le huq he'
    rw [Real.rpow_one] at hpow
    calc realPow u q e ≤ u * ((q : ℝ) / u) := by unfold realPow; gcongr
      _ = q := mul_div_cancel₀ _ hu'.ne'
      _ ≤ q + u := le_add_of_nonneg_right hu'.le

theorem realPow_nonneg (u q e : Nat) : 0 ≤ realPow u q e := by unfold realPow; positivity

/-- Comparing natural numbers compares with twice the power. -/
theorem pow_mul_le_iff {u : Nat} (hu : 0 < u) (q e f : Nat) :
    f ^ u * u ^ e ≤ 2 ^ u * u ^ u * q ^ e ↔ (f : ℝ) ≤ 2 * realPow u q e := by
  have hv := realPow_nonneg u q e
  have hue : (0 : ℝ) < (u : ℝ) ^ e := by positivity
  have hpow : (f : ℝ) ≤ 2 * realPow u q e ↔ (f : ℝ) ^ u * u ^ e ≤ (2 * realPow u q e) ^ u * u ^ e := by
    rw [mul_le_mul_iff_left₀ hue, pow_le_pow_iff_left₀ (Nat.cast_nonneg f) (by positivity) hu.ne']
  rw [hpow, realPow_pow hu]
  exact_mod_cast Iff.rfl

theorem pow_mul_eq_iff {u : Nat} (hu : 0 < u) (q e f : Nat) :
    f ^ u * u ^ e = 2 ^ u * u ^ u * q ^ e ↔ (f : ℝ) = 2 * realPow u q e := by
  have hv := realPow_nonneg u q e
  have hue : (u : ℝ) ^ e ≠ 0 := by positivity
  have hpow : (f : ℝ) = 2 * realPow u q e ↔ (f : ℝ) ^ u * u ^ e = (2 * realPow u q e) ^ u * u ^ e := by
    rw [mul_left_inj' hue, pow_left_inj₀ (Nat.cast_nonneg f) (by positivity) hu.ne']
  rw [hpow, realPow_pow hu]
  exact_mod_cast Iff.rfl

/-- Strictly between neighbouring half units there is no midpoint of two representable values, so all values there round
alike. -/
theorem IsNearestEven.of_quarter {y f : Nat} {v : ℝ} (h : IsNearestEven y (((2 * f + 1 : ℕ) : ℝ) / (4 : ℕ)))
    (hlt : (f : ℝ) < 2 * v) (hgt : 2 * v < f + 1) : IsNearestEven y v := by
  have hquarter : 2 * (((2 * f + 1 : ℕ) : ℝ) / (4 : ℕ)) = f + 1 / 2 := by push_cast; ring
  have hbelow : ∀ z, Representable z → z < y → (z : ℝ) + y < 2 * v := fun z hz hzy => by
    have hmid := (abs_sub_upper_le_iff (Nat.cast_lt.mpr hzy)).mp (h.nearest z hz)
    have hle : z + y < f + 1 := by
      rw [← Nat.cast_lt (α := ℝ)]
      push_cast
      linarith
    have hle : ((z + y : ℕ) : ℝ) ≤ f := Nat.cast_le.mpr (Nat.le_of_lt_succ hle)
    push_cast at hle
    linarith
  have habove : ∀ z, Representable z → y < z → 2 * v < (y : ℝ) + z := fun z hz hyz => by
    have hmid := (abs_sub_lower_le_iff (Nat.cast_lt.mpr hyz)).mp (h.nearest z hz)
    have hle : f < y + z := by
      rw [← Nat.cast_lt (α := ℝ)]
      push_cast
      linarith
    have hle : ((f + 1 : ℕ) : ℝ) ≤ (y + z : ℕ) := Nat.cast_le.mpr hle
    push_cast at hle
    linarith
  refine ⟨h.representable, fun z hz => ?_, fun z hz hne htie => ?_⟩
  · obtain hzy | rfl | hyz := lt_trichotomy z y
    · exact (abs_sub_upper_le_iff (Nat.cast_lt.mpr hzy)).mpr (hbelow z hz hzy).le
    · exact le_rfl
    · exact (abs_sub_lower_le_iff (Nat.cast_lt.mpr hyz)).mpr (habove z hz hyz).le
  · obtain hzy | hyz := hne.lt_or_gt
    · exact absurd ((abs_sub_lower_le_iff (Nat.cast_lt.mpr hzy)).mp htie.le) (hbelow z hz hzy).not_ge
    · exact absurd ((abs_sub_upper_le_iff (Nat.cast_lt.mpr hyz)).mp htie.le) (habove z hz hyz).not_ge

/-- The exact fallback rounds the power: it finds `⌊2v⌋` and asks whether that is `2v`. -/
theorem powExact_isNearestEven {u q e : Nat} (hu : 0 < u) (he : e ≤ u) :
    IsNearestEven (powExact u q e) (realPow u q e) := by
  have hv := realPow_nonneg u q e
  have hfloor := pow_mul_le_iff hu q e
  unfold powExact
  dsimp only
  have hspec : Nat.findGreatest (fun f => f ^ u * u ^ e ≤ 2 ^ u * u ^ u * q ^ e) (2 * (q + u)) ^ u * u ^ e ≤
      2 ^ u * u ^ u * q ^ e :=
    Nat.findGreatest_spec (P := fun f => f ^ u * u ^ e ≤ 2 ^ u * u ^ u * q ^ e) (Nat.zero_le _)
      ((hfloor 0).mpr (by push_cast; positivity))
  have hmax : ∀ g : Nat, (g : ℝ) ≤ 2 * realPow u q e →
      g ≤ Nat.findGreatest (fun f => f ^ u * u ^ e ≤ 2 ^ u * u ^ u * q ^ e) (2 * (q + u)) := fun g hg => by
    refine Nat.le_findGreatest ?_ ((hfloor g).mpr hg)
    rw [← Nat.cast_le (α := ℝ)]
    push_cast
    linarith [realPow_le hu he (q := q)]
  generalize Nat.findGreatest (fun f => f ^ u * u ^ e ≤ 2 ^ u * u ^ u * q ^ e) (2 * (q + u)) = f at *
  have hle : (f : ℝ) ≤ 2 * realPow u q e := (hfloor f).mp hspec
  have hlt : 2 * realPow u q e < f + 1 := by
    by_contra! hge
    exact absurd (hmax (f + 1) (by push_cast; exact hge)) (by omega)
  split
  next hexact =>
    have hhalf : realPow u q e = (f : ℝ) / (2 : ℕ) := by
      rw [(pow_mul_eq_iff hu q e f).mp hexact]
      push_cast
      ring
    rw [hhalf]
    exact round64_isNearestEven f two_pos
  next hne =>
    rw [pow_mul_eq_iff hu] at hne
    exact (round64_isNearestEven (2 * f + 1) four_pos).of_quarter (lt_of_le_of_ne hle hne) hlt

theorem isNearestEven_self {y : Nat} (hy : Representable y) : IsNearestEven y y := by
  refine ⟨hy, fun z _ => ?_, fun z _ hne htie => ?_⟩
  · rw [sub_self, abs_zero]; exact abs_nonneg _
  · rw [sub_self, abs_zero, abs_eq_zero, sub_eq_zero, Nat.cast_inj] at htie
    exact absurd htie.symm hne

/-- The power with exponent 1 is the base. -/
theorem realPow_one {u : Nat} (hu : 0 < u) (q : Nat) : realPow u q u = q := by
  have hu' : (u : ℝ) ≠ 0 := by positivity
  rw [realPow, div_self hu', Real.rpow_one, mul_div_cancel₀ _ hu']

/-- `pow64` is the representable value nearest the real power, ties to even (R104). -/
theorem pow64_isNearestEven {q e : Nat} (hq : Representable q) (he : e ≤ unit64) :
    IsNearestEven (pow64 q e) (realPow unit64 q e) := by
  rw [pow64]
  split
  next htop =>
    rw [htop, realPow_one unit64_pos]
    exact isNearestEven_self hq
  next =>
    split
    next y hy => exact powFirst_isNearestEven (by decide) hy
    next => exact powExact_isNearestEven unit64_pos he

end Sys2Proof.Machine
end

section
/-! The thresholds of a legal configuration (R106): they do not decrease, the first is at least MIN_FREQ, the last is MAX_FREQ;
and the threshold table stays sorted while it is valid (R31). -/

namespace Sys2Proof.Machine

/-! ### Rounding keeps representable bounds -/

/-- A representable value that is not above the quotient is not above its rounding. -/
theorem le_round64 {num den z : Nat} (hden : 0 < den) (hz : Representable z) (h : z * den ≤ num) :
    z ≤ round64 num den := by
  refine (round64_isNearestEven num hden).ge_of_representable hz ?_
  rw [le_div_iff₀ (Nat.cast_pos.mpr hden)]
  exact_mod_cast h

/-- A representable value that is not below the quotient is not below its rounding. -/
theorem round64_le {num den z : Nat} (hden : 0 < den) (hz : Representable z) (h : num ≤ z * den) :
    round64 num den ≤ z := by
  refine (round64_isNearestEven num hden).le_of_representable hz ?_
  rw [div_le_iff₀ (Nat.cast_pos.mpr hden)]
  exact_mod_cast h

/-- A whole number of at most 53 bits is representable. -/
theorem representable_mul_unit64 {m : Nat} (h : m < 2 ^ 53) : Representable (m * unit64) := by
  rw [unit64]
  exact representable_mul_two_pow h 1074

theorem representable_unit64 : Representable unit64 := by
  rw [← one_mul unit64]
  exact representable_mul_unit64 (by norm_num)

/-! ### The power between its bounds -/

/-- A power of a base of at least 1 is at least 1. -/
theorem unit64_le_pow64 {q e : Nat} (hq : Representable q) (hq1 : unit64 ≤ q) (he : e ≤ unit64) :
    unit64 ≤ pow64 q e := by
  have hu : (0 : ℝ) < unit64 := Nat.cast_pos.mpr unit64_pos
  have hbase : 1 ≤ (q : ℝ) / unit64 := (one_le_div hu).mpr (Nat.cast_le.mpr hq1)
  have hpow := Real.one_le_rpow hbase (div_nonneg (Nat.cast_nonneg e) hu.le)
  exact (pow64_isNearestEven hq he).ge_of_representable representable_unit64 (le_mul_of_one_le_right hu.le hpow)

/-- A power of a base of at least 1 does not decrease in the exponent. -/
theorem pow64_mono {q e e' : Nat} (hq : Representable q) (hq1 : unit64 ≤ q) (he : e ≤ e') (he' : e' ≤ unit64) :
    pow64 q e ≤ pow64 q e' := by
  have hu : (0 : ℝ) < unit64 := Nat.cast_pos.mpr unit64_pos
  obtain rfl | hlt := he.eq_or_lt
  · exact le_rfl
  obtain rfl | hq1 := hq1.eq_or_lt
  · refine le_trans (le_of_eq ?_) (unit64_le_pow64 hq le_rfl he')
    have hone : realPow unit64 unit64 e = unit64 := by
      rw [realPow, div_self hu.ne', Real.one_rpow, mul_one]
    exact (hone ▸ pow64_isNearestEven hq (he.trans he')).eq_of_representable hq
  · have hbase : 1 < (q : ℝ) / unit64 := (one_lt_div hu).mpr (Nat.cast_lt.mpr hq1)
    have hexp : (e : ℝ) / unit64 < (e' : ℝ) / unit64 := div_lt_div_of_pos_right (Nat.cast_lt.mpr hlt) hu
    exact (pow64_isNearestEven hq (he.trans he')).le_of_lt (pow64_isNearestEven hq he')
      (mul_lt_mul_of_pos_left (Real.rpow_lt_rpow_of_exponent_lt hbase hexp) hu)

/-! ### The top of the table -/

/-- `mn` times the rounded ratio `mx/mn` is close to `mx`: the ratio cut to 30 fraction bits is representable, so rounding the
ratio misses it by no more than `2^-30`. -/
theorem mul_round64_near {mn mx u k : Nat} (hu : u = 2 ^ 30 * 2 ^ k) (hmn : 0 < mn) (hmn16 : mn ≤ 2 ^ 16)
    (hmx16 : mx ≤ 2 ^ 16) :
    |(mn : ℝ) * round64 (mx * u) mn - (mx * u : ℕ)| ≤ 2 ^ 16 * 2 ^ k := by
  have hmn' : (0 : ℝ) < mn := Nat.cast_pos.mpr hmn
  have hrep : Representable (mx * 2 ^ 30 / mn * 2 ^ k) :=
    representable_mul_two_pow (lt_of_le_of_lt (Nat.div_le_self _ _) (by omega)) k
  have hnear := (round64_isNearestEven (mx * u) hmn).nearest _ hrep
  have hlower : ((mx * 2 ^ 30 / mn : ℕ) : ℝ) ≤ (mx * 2 ^ 30 : ℕ) / mn := Nat.cast_div_le
  have hupper : ((mx * 2 ^ 30 : ℕ) : ℝ) / mn ≤ (mx * 2 ^ 30 / mn : ℕ) + 1 := by
    rw [div_le_iff₀ hmn']
    exact_mod_cast (Nat.lt_div_mul_add hmn).le.trans_eq (by ring)
  have hv : ((mx * u : ℕ) : ℝ) / mn = (mx * 2 ^ 30 : ℕ) / mn * 2 ^ k := by
    rw [hu]; push_cast; ring
  have hcut : |((mx * u : ℕ) : ℝ) / mn - (mx * 2 ^ 30 / mn * 2 ^ k : ℕ)| ≤ 2 ^ k := by
    rw [hv, Nat.cast_mul (mx * 2 ^ 30 / mn), Nat.cast_pow, Nat.cast_ofNat, ← sub_mul, abs_mul,
      abs_of_nonneg (sub_nonneg.mpr hlower), abs_of_pos (by positivity)]
    exact mul_le_of_le_one_left (by positivity) (by linarith)
  calc |(mn : ℝ) * round64 (mx * u) mn - (mx * u : ℕ)|
      = mn * |((mx * u : ℕ) : ℝ) / mn - round64 (mx * u) mn| := by
        rw [← abs_of_pos hmn', ← abs_mul, abs_of_pos hmn', mul_sub, mul_div_cancel₀ _ hmn'.ne', abs_sub_comm]
    _ ≤ 2 ^ 16 * 2 ^ k := by
        gcongr
        · exact_mod_cast hmn16
        · exact hnear.trans hcut

/-- Two roundings of nearly `mx` stay within a quarter of `mx`. -/
theorem round64_mul_ratio_near {mn mx u k : Nat} (hu : u = 2 ^ 30 * 2 ^ k) (hmn : 0 < mn) (hmn16 : mn ≤ 2 ^ 16)
    (hmx16 : mx ≤ 2 ^ 16) (hrep : Representable (mx * u)) :
    mx * u ≤ round64 (mn * round64 (mx * u) mn) 1 + 2 ^ 17 * 2 ^ k ∧
    round64 (mn * round64 (mx * u) mn) 1 ≤ mx * u + 2 ^ 17 * 2 ^ k := by
  have hfirst := mul_round64_near hu hmn hmn16 hmx16
  have hsecond := (round64_isNearestEven (mn * round64 (mx * u) mn) one_pos).nearest _ hrep
  rw [Nat.cast_one, div_one, Nat.cast_mul mn] at hsecond
  generalize round64 (mn * round64 (mx * u) mn) 1 = x at *
  generalize round64 (mx * u) mn = q at *
  have hsecond := abs_le.mp (hsecond.trans hfirst)
  have hfirst := abs_le.mp hfirst
  generalize mx * u = m at *
  constructor
  · rw [← Nat.cast_le (α := ℝ)]
    push_cast
    linarith
  · rw [← Nat.cast_le (α := ℝ)]
    push_cast
    linarith

/-! ### The threshold formula -/

theorem thrFloor_eq (min max n i : Nat) : thrFloor min max n i =
    round64 (round64 (min * pow64 (round64 (max * unit64) min) (round64 (i * unit64) n)) 1 + unit64 / 2) 1
      / unit64 := rfl

section Legal

variable {min max n : Word} (hc : LegalConfig min max n)
include hc

theorem LegalConfig.ratio_representable : Representable (round64 (max.toNat * unit64) min.toNat) :=
  (round64_isNearestEven _ hc.min_pos).representable

theorem LegalConfig.unit64_le_ratio : unit64 ≤ round64 (max.toNat * unit64) min.toNat := by
  refine le_round64 hc.min_pos representable_unit64 ?_
  rw [mul_comm]
  exact Nat.mul_le_mul_right _ hc.min_lt_max.le

/-- The exponent of an entry up to the top is at most 1. -/
theorem LegalConfig.exponent_le {i : Nat} (hi : i ≤ n.toNat) : round64 (i * unit64) n.toNat ≤ unit64 := by
  refine round64_le hc.bars_pos representable_unit64 ?_
  rw [mul_comm]
  exact Nat.mul_le_mul_left _ hi

/-- The floor does not decrease (R106 (c)): each step of the formula keeps order. -/
theorem LegalConfig.thrFloor_mono {i j : Nat} (hij : i ≤ j) (hj : j ≤ n.toNat) :
    thrFloor min.toNat max.toNat n.toNat i ≤ thrFloor min.toNat max.toNat n.toNat j := by
  have hexp : round64 (i * unit64) n.toNat ≤ round64 (j * unit64) n.toNat :=
    round64_mono hc.bars_pos (Nat.mul_le_mul_right _ hij)
  have hpow := pow64_mono hc.ratio_representable hc.unit64_le_ratio hexp (hc.exponent_le hj)
  rw [thrFloor_eq, thrFloor_eq]
  exact Nat.div_le_div_right (round64_mono one_pos (Nat.add_le_add_right
    (round64_mono one_pos (Nat.mul_le_mul_left _ hpow)) _))

/-- The floor is at least MIN_FREQ (R106 (d)): the power is at least 1, and MIN_FREQ is representable. -/
theorem LegalConfig.min_le_thrFloor {i : Nat} (hi : i ≤ n.toNat) :
    min.toNat ≤ thrFloor min.toNat max.toNat n.toNat i := by
  have hmin : min.toNat < 2 ^ 53 := hc.min_fits.trans_lt (by norm_num)
  have hrep : Representable (min.toNat * unit64) := representable_mul_unit64 hmin
  have hpow := unit64_le_pow64 hc.ratio_representable hc.unit64_le_ratio (hc.exponent_le hi)
  have hx := le_round64 one_pos hrep ((mul_one _).trans_le (Nat.mul_le_mul_left min.toNat hpow))
  have hy := le_round64 one_pos hrep ((mul_one _).trans_le (Nat.le_add_right_of_le (k := unit64 / 2) hx))
  rw [thrFloor_eq, Nat.le_div_iff_mul_le unit64_pos]
  exact hy

/-- The exponent at the top is exactly 1. -/
theorem LegalConfig.exponent_top : round64 (n.toNat * unit64) n.toNat = unit64 := by
  have hn : (n.toNat : ℝ) ≠ 0 := Nat.cast_ne_zero.mpr (Nat.pos_iff_ne_zero.mp hc.bars_pos)
  have hround := round64_isNearestEven (n.toNat * unit64) hc.bars_pos
  rw [Nat.cast_mul, mul_div_cancel_left₀ _ hn] at hround
  exact hround.eq_of_representable representable_unit64

/-- The floor at the top is MAX_FREQ (R106 (b)). -/
theorem LegalConfig.thrFloor_top : thrFloor min.toNat max.toNat n.toNat n.toNat = max.toNat := by
  obtain ⟨k, hu⟩ : ∃ k, unit64 = 2 ^ 30 * 2 ^ k := ⟨1074 - 30, unit64_eq_mul (by norm_num)⟩
  have hmin := hc.min_fits
  have hmax := hc.max_fits
  have hrep : Representable (max.toNat * unit64) := representable_mul_unit64 (by omega)
  have hrep' : Representable ((4 * max.toNat + 3) * 2 ^ (28 + k)) := representable_mul_two_pow (by omega) _
  obtain ⟨hlo, hhi⟩ := round64_mul_ratio_near hu hc.min_pos (by omega) (by omega) hrep
  rw [thrFloor_eq, hc.exponent_top, show pow64 _ unit64 = _ from if_pos rfl]
  generalize round64 (min.toNat * round64 (max.toNat * unit64) min.toNat) 1 = x at *
  have hm : max.toNat * unit64 = 2 ^ 30 * (max.toNat * 2 ^ k) := by rw [hu]; ring
  have hb : (4 * max.toNat + 3) * 2 ^ (28 + k) = 2 ^ 30 * (max.toNat * 2 ^ k) + 3 * 2 ^ 28 * 2 ^ k := by ring
  have hw : 0 < 2 ^ k := Nat.two_pow_pos k
  have hge := le_round64 (num := x + unit64 / 2) one_pos hrep (by omega)
  have hle := round64_le (num := x + unit64 / 2) one_pos hrep' (by omega)
  refine Nat.div_eq_of_lt_le hge ?_
  rw [add_mul, one_mul]
  omega

/-- The floor never exceeds MAX_FREQ, so the truncation to 16 bits changes nothing (R105). -/
theorem LegalConfig.thrFloor_lt {i : Nat} (hi : i ≤ n.toNat) : thrFloor min.toNat max.toNat n.toNat i < 2 ^ 16 := by
  have hle := (hc.thrFloor_mono hi le_rfl).trans_eq hc.thrFloor_top
  have hmax := hc.max_fits
  omega

theorem LegalConfig.thr_eq_thrFloor {i : Nat} (hi : i ≤ n.toNat) :
    thr min.toNat max.toNat n.toNat i = thrFloor min.toNat max.toNat n.toNat i :=
  Nat.mod_eq_of_lt (hc.thrFloor_lt hi)

/-- An entry of the written table, as a number. -/
theorem LegalConfig.thrAt_toNat (s : State) {i : Nat} (hi1 : 1 ≤ i) (hi : i ≤ n.toNat) :
    ((s.writeThresholds min max n).thrAt i).toNat = thrFloor min.toNat max.toNat n.toNat i := by
  have hn := hc.bars_le
  rw [s.thrAt_writeThresholds_eq, if_pos (by omega), thrEntry, if_neg (by omega), if_pos hi, BitVec.toNat_ofNat,
    hc.thr_eq_thrFloor hi, Nat.mod_eq_of_lt (hc.thrFloor_lt hi)]

/-! ### The sorted table (R31) -/

/-- The written table of a legal configuration is sorted, with the record that is in flight legal. -/
theorem State.ThrInv.writeThresholds (s : State) (hi : s.inflight = none) : (s.writeThresholds min max n).ThrInv where
  floor _ := s.thrAt_writeThresholds min max n (by decide)
  sorted _ i hin := by
    have hin : i < n.toNat := hin
    obtain rfl | hpos := Nat.eq_zero_or_pos i
    · rw [s.thrAt_writeThresholds min max n (by decide), thrEntry, if_pos rfl]
      exact BitVec.le_def.mpr (Nat.zero_le _)
    · rw [BitVec.le_def, hc.thrAt_toNat s hpos hin.le, hc.thrAt_toNat s (by omega) hin]
      exact hc.thrFloor_mono (Nat.le_succ i) hin
  first_pos _ := by
    rw [hc.thrAt_toNat s le_rfl hc.bars_pos]
    exact hc.min_pos.trans (hc.min_le_thrFloor hc.bars_pos)
  flight c hfl := by cases hi.symm.trans hfl

end Legal

/-- `ThrInv` reads, beside the record in flight, the thresholds, THR_N and THR_VALID only. -/
theorem State.ThrInv.of_thr_eq {s t : State} (h : s.ThrInv) (hthr : t.thr = s.thr) (hn : t.thrN = s.thrN)
    (hv : t.thrValid = s.thrValid)
    (hf : ∀ c, t.inflight = some c → c.op = .genThr ∨ c.op = .run → LegalConfig c.min c.max c.n) : t.ThrInv where
  floor := by simpa only [hv, thrAt, hthr] using h.floor
  sorted := by simpa only [hv, hn, thrAt, hthr] using h.sorted
  first_pos := by simpa only [hv, thrAt, hthr] using h.first_pos
  flight := hf

/-- A legal record of a command that reads the bounds has a legal configuration. -/
theorem FlightLegal.legalConfig {s : State} {c : InFlight} (h : FlightLegal s c)
    (hop : c.op = .genThr ∨ c.op = .run) : LegalConfig c.min c.max c.n := by
  obtain hop | hop := hop <;> simp only [FlightLegal, hop] at h
  · exact h
  · exact h.1

theorem State.ThrInv.keepsTables {s t : State} (h : s.ThrInv) (hk : KeepsTables s t) : t.ThrInv := by
  refine h.of_thr_eq hk.thr hk.thrN hk.thrValid fun c hc hop => ?_
  obtain hsame | ⟨d, hd, hlegal⟩ := hk.flight
  · exact h.flight c (hsame ▸ hc) hop
  · cases hd.symm.trans hc
    exact hlegal.legalConfig hop

theorem State.ThrInv.engineTurn {s : State} (h : s.ThrInv) : s.engineTurn.ThrInv := by
  obtain ⟨-, ht⟩ | ⟨c, hc, ⟨hop, ht⟩ | ⟨-, ht⟩ | ⟨-, ht⟩ | ⟨hop, ht⟩ | ⟨-, ht⟩ | ⟨-, ht⟩⟩ :=
    s.engineTurn_cases <;> rw [ht]
  · exact h
  · rw [finish_writeThresholds]
    exact ThrInv.writeThresholds (h.flight c hc (.inl hop)) s.finish rfl
  · exact h.of_thr_eq rfl rfl rfl nofun
  · exact h.of_thr_eq rfl rfl rfl nofun
  · have hthr := ThrInv.writeThresholds (h.flight c hc (.inr hop)) s.finish rfl
    exact hthr.of_thr_eq rfl rfl rfl nofun
  · exact h.of_thr_eq rfl rfl rfl nofun
  · exact h.of_thr_eq rfl rfl rfl nofun

/-- Settles O53: only a completion of GEN_THR or RUN writes the table, and it writes a sorted one. -/
theorem everyStepKeepsTheThresholdsSorted : Obligations.EveryStepKeepsTheThresholdsSorted := by
  intro s t h hstep
  obtain ⟨rest, -, rfl⟩ | ⟨rest, resp, -, rfl⟩ | hk := step_effect hstep
  · exact (h.keepsTables ((sameTables_pending s rest).keeps rfl)).engineTurn
  · exact State.ThrInv.reset.of_thr_eq rfl rfl rfl nofun
  · exact h.keepsTables hk

end Sys2Proof.Machine
end

section
/-! The bus through the step: which transactions are legal (R57), what a read answers (R53 to R56), and what a write outside CMD
stores (R58 to R60). -/

namespace Sys2Proof.Machine

/-! ### Legal transactions (R57) -/

theorem Width.bytes_eq_four_iff (w : Width) : w.bytes = 4 ↔ w = .w4 := by
  cases w <;> decide

theorem Transaction.legal_iff (t : Transaction) :
    t.legal = true ↔ t.addr % t.width.bytes = 0 ∧ (0x2000 ≤ t.addr ∨ t.width = .w4) := by
  rw [legal, Bool.and_eq_true, Bool.or_eq_true, decide_eq_true_iff, decide_eq_true_iff, decide_eq_true_iff,
    narrowBase]

theorem Transaction.legal_eq_false_iff (t : Transaction) :
    t.legal = false ↔ t.addr % t.width.bytes ≠ 0 ∨ (t.width ≠ .w4 ∧ t.addr < 0x2000) := by
  rw [← Bool.not_eq_true, legal_iff, not_and_or, not_or, Nat.not_le, and_comm]

/-- The OUT window begins at a multiple of every width, so an offset is aligned where its address is. -/
theorem Width.aligned_of_offset (w : Width) {a k : Nat} (ha : a = 0x2000 + k) (hk : k % w.bytes = 0) :
    a % w.bytes = 0 := by
  cases w <;> rw [bytes] at hk ⊢ <;> omega

/-! ### A transaction through the step -/

/-- An illegal transaction is answered ERROR and recorded, before anything of it is decoded. -/
theorem step_illegal {s : State} {t : Transaction} {rest : List Event} (hp : s.pending = .bus t :: rest)
    (hl : t.legal = false) :
    step s = .next (({ s with pending := rest }.raise .busAccess).respond t.errorResponse) := by
  rw [step_bus hp, State.transact, hl, if_neg Bool.false_ne_true]

/-- What a read answers is none of the inputs to come and not the last answer. -/
theorem State.readData_inputs (s : State) (es : List Event) (r : Option Response) (t : Transaction) :
    { s with pending := es, response := r }.readData t = s.readData t := rfl

/-- A legal read changes nothing but the bus answer (R60). -/
theorem step_read {s : State} {a : BitVec 16} {w : Width} {rest : List Event}
    (hp : s.pending = .bus (.read a w) :: rest) (hl : (Transaction.read a w).legal = true) :
    step s = .next { s with pending := rest, response := some (.okay (some (s.readData (.read a w)))) } := by
  rw [step_bus hp, State.transact, if_pos hl]
  rfl

/-- A legal write outside CMD stores one configuration register at most, whatever its width. -/
theorem step_write {s : State} {a : BitVec 16} {w : Width} {v : Word} {rest : List Event}
    (hp : s.pending = .bus (.write a w v) :: rest) (hl : (Transaction.write a w v).legal = true)
    (ha : a.toNat ≠ 0) :
    step s = .next { s with
      minFreq := if a.toNat = 0x08 then v else s.minFreq
      maxFreq := if a.toNat = 0x0C then v else s.maxFreq
      numBars := if a.toNat = 0x10 then v else s.numBars
      scheme := if a.toNat = 0x14 then v else s.scheme
      pending := rest
      response := some (.okay none) } := by
  rw [step_bus hp, State.transact, if_pos hl, State.legalTransact, if_neg (show a.toNat ≠ addrCmd from ha),
    State.writeRegister_eq]
  rfl

/-- A legal write to an address that is neither CMD nor a configuration register is ignored (R58, R59). -/
theorem step_write_ignored {s : State} {a : BitVec 16} {w : Width} {v : Word} {rest : List Event}
    (hp : s.pending = .bus (.write a w v) :: rest) (hl : (Transaction.write a w v).legal = true)
    (ha : ¬ (a.toNat = 0 ∨ a.toNat = 0x08 ∨ a.toNat = 0x0C ∨ a.toNat = 0x10 ∨ a.toNat = 0x14)) :
    step s = .next { s with pending := rest, response := some (.okay none) } := by
  obtain ⟨hcmd, hmin, hmax, hbars, hscheme⟩ : a.toNat ≠ 0 ∧ a.toNat ≠ 0x08 ∧ a.toNat ≠ 0x0C ∧
    a.toNat ≠ 0x10 ∧ a.toNat ≠ 0x14 := by omega
  rw [step_write hp hl hcmd, if_neg hmin, if_neg hmax, if_neg hbars, if_neg hscheme]

/-- Any number of legal reads changes nothing but the last answer. -/
theorem run_reads (reads : List (BitVec 16 × Width)) {s : State} {rest : List Event}
    (hl : ∀ p ∈ reads, (Transaction.read p.1 p.2).legal = true)
    (hp : s.pending = reads.map (fun p => .bus (.read p.1 p.2)) ++ rest) :
    ∃ r, Host.Core.run Sys2Proof.core reads.length s = .next { s with pending := rest, response := r } := by
  induction reads generalizing s with
  | nil => exact ⟨s.response, by rw [← show s.pending = rest from hp]; rfl⟩
  | cons p reads ih =>
    obtain ⟨hread, hreads⟩ := List.forall_mem_cons.mp hl
    obtain ⟨r, hr⟩ := ih (s := { s with
      pending := reads.map (fun p => .bus (.read p.1 p.2)) ++ rest
      response := some (.okay (some (s.readData (.read p.1 p.2)))) }) hreads rfl
    exact ⟨r, (run_succ (step_read hp hread) reads.length).trans hr⟩

/-- Settles O5: a 4-byte write to CMD is legal, so its word is decoded and executed. -/
theorem stepRunsTheDecodedCommand : Obligations.StepRunsTheDecodedCommand := by
  intro s w i rest hp hd
  have hl : (Transaction.write 0x0000#16 .w4 w).legal = true := rfl
  have hcmd : (0x0000#16).toNat = addrCmd := rfl
  rw [step_bus hp, State.transact, if_pos hl, State.legalTransact, if_pos hcmd, State.onCmdWrite_ok hd]

/-- Settles O17: the condition of R57 is the negation of legality. -/
theorem illegalTransactionRecordsBusAccessOnly : Obligations.IllegalTransactionRecordsBusAccessOnly := by
  intro s t rest hp hillegal
  rw [Ne, Ne, Width.bytes_eq_four_iff, ← Ne, ← Transaction.legal_eq_false_iff] at hillegal
  rw [step_illegal hp hillegal]
  cases t <;> rfl

/-- Settles O32: of the legal writes outside CMD, one to none of the four registers stores nothing. -/
theorem writesToReservedAndReadOnlyAddressesAreIgnored :
    Obligations.WritesToReservedAndReadOnlyAddressesAreIgnored := by
  intro s a w v rest hp halign hwidth ha
  rw [Width.bytes_eq_four_iff] at hwidth
  exact step_write_ignored hp ((Transaction.legal_iff _).mpr ⟨halign, hwidth.symm⟩) ha

/-- Settles O34: the second of the two reads finds the state of the first one, but for inputs and answer. -/
theorem readsHaveNoSideEffect : Obligations.ReadsHaveNoSideEffect := by
  refine ⟨fun s a w rest hl hp => ⟨_, step_read hp hl, rfl⟩, fun s a w between rest hl hbetween hp => ?_,
    fun s a w v rest hl ha hp => step_write hp hl ha⟩
  have hfirst := step_read hp hl
  obtain ⟨r, hmid⟩ := run_reads between hbetween (s := { s with
    pending := between.map (fun p => .bus (.read p.1 p.2)) ++ .bus (.read a w) :: rest
    response := some (.okay (some (s.readData (.read a w)))) }) rfl
  have hlast := step_read (s := { s with pending := .bus (.read a w) :: rest, response := r }) rfl hl
  rw [State.readData_inputs] at hlast
  exact ⟨_, _, hfirst, (run_add hmid 1).trans (run_succ hlast 0), rfl, rfl⟩

/-! ### Byte order (R56) -/

theorem readLE_eq_sum (byte : Nat → Byte) (a n : Nat) :
    readLE byte a n = ∑ j ∈ Finset.range n, (byte (a + j)).toNat * 2 ^ (8 * j) := by
  induction n generalizing a with
  | zero => rfl
  | succ n ih =>
    rw [readLE, ih, Finset.sum_range_succ', Finset.mul_sum, add_comm]
    refine congrArg₂ _ (Finset.sum_congr rfl fun j _ => ?_) (Nat.mul_one _).symm
    rw [Nat.add_right_comm a 1 j, Nat.add_assoc a j 1]
    ring

theorem readLE_lt (byte : Nat → Byte) (a n : Nat) : readLE byte a n < 2 ^ (8 * n) := by
  induction n generalizing a with
  | zero => exact Nat.one_pos
  | succ n ih =>
    have hbyte := (byte a).isLt
    have hrest := ih (a + 1)
    rw [readLE, Nat.mul_succ, Nat.pow_add]
    omega

/-- The data of a read is the little-endian sum of its bytes: at most four, so nothing is lost in the 32 bits. -/
theorem State.readData_toNat (s : State) (t : Transaction) : (s.readData t).toNat =
    ∑ j ∈ Finset.range t.width.bytes, (s.byteAt (t.addr + j)).toNat * 2 ^ (8 * j) := by
  have hwidth : 8 * t.width.bytes ≤ 32 := by cases t.width <;> decide
  have hlt := (readLE_lt s.byteAt t.addr t.width.bytes).trans_le (Nat.pow_le_pow_right two_pos hwidth)
  rw [readData, BitVec.toNat_ofNat, Nat.mod_eq_of_lt hlt, readLE_eq_sum]

/-- The bytes of an aligned word below the OUT window are the word's slices. -/
theorem State.byteAt_of_aligned (s : State) {a j : Nat} (halign : a % 4 = 0) (hlt : a < 0x2000) (hj : j < 4) :
    s.byteAt (a + j) = (s.wordAt a).extractLsb' (8 * j) 8 := by
  have hmod : (a + j) % 4 = j := by omega
  rw [byteAt, if_pos (show a + j < narrowBase by rw [narrowBase]; omega), hmod, Nat.add_sub_cancel]

theorem State.readData_word (s : State) {a : BitVec 16} (halign : a.toNat % 4 = 0) (hlt : a.toNat < 0x2000) :
    s.readData (.read a .w4) = s.wordAt a.toNat := by
  have hslice : ∀ j, j < 4 → (s.byteAt (a.toNat + j)).toNat = (s.wordAt a.toNat).toNat / 2 ^ (8 * j) % 2 ^ 8 := by
    intro j hj
    rw [s.byteAt_of_aligned halign hlt hj, BitVec.extractLsb'_toNat, Nat.shiftRight_eq_div_pow]
  have hsum : (s.readData (.read a .w4)).toNat =
      ∑ j ∈ Finset.range 4, (s.wordAt a.toNat).toNat / 2 ^ (8 * j) % 2 ^ 8 * 2 ^ (8 * j) :=
    (s.readData_toNat _).trans
      (Finset.sum_congr rfl fun j hj => congrArg (· * _) (hslice j (Finset.mem_range.mp hj)))
  have hword := (s.wordAt a.toNat).isLt
  refine BitVec.eq_of_toNat_eq (hsum.trans ?_)
  simp only [Finset.sum_range_succ, Finset.sum_range_zero]
  omega

/-- Settles O35: the sum holds for every width, and four slices of a word add up to it. -/
theorem readsAreLittleEndian : Obligations.ReadsAreLittleEndian :=
  ⟨State.readData_toNat,
    fun s _ halign hlt => ⟨fun _ hj => s.byteAt_of_aligned halign hlt hj, s.readData_word halign hlt⟩,
    fun _ _ _ _ hl hp => step_read hp hl⟩

/-! ### Registers (R52, R53) and the THR window (R54) -/

@[simp] theorem State.wordAt_cmd (s : State) : s.wordAt 0x00 = 0#32 := rfl
@[simp] theorem State.wordAt_status (s : State) : s.wordAt 0x04 = s.status := rfl
@[simp] theorem State.wordAt_minFreq (s : State) : s.wordAt 0x08 = s.minFreq := rfl
@[simp] theorem State.wordAt_maxFreq (s : State) : s.wordAt 0x0C = s.maxFreq := rfl
@[simp] theorem State.wordAt_numBars (s : State) : s.wordAt 0x10 = s.numBars := rfl
@[simp] theorem State.wordAt_scheme (s : State) : s.wordAt 0x14 = s.scheme := rfl
@[simp] theorem State.wordAt_result (s : State) : s.wordAt 0x18 = s.result := rfl
@[simp] theorem State.wordAt_thrN (s : State) : s.wordAt 0x1C = s.thrN := rfl

theorem State.wordAt_thr (s : State) {i : Nat} (hi : i ≤ 256) :
    s.wordAt (0x1000 + 4 * i) = (s.thrAt i).setWidth 32 := by
  have hwindow : thrBase ≤ 0x1000 + 4 * i ∧ 0x1000 + 4 * i < thrEnd := by rw [thrBase, thrEnd]; omega
  have hindex : (0x1000 + 4 * i - thrBase) / 4 = i := by rw [thrBase]; omega
  unfold wordAt addrStatus addrMinFreq addrMaxFreq addrNumBars addrScheme addrResult addrThrN
  rw [if_neg (by omega), if_neg (by omega), if_neg (by omega), if_neg (by omega), if_neg (by omega),
    if_neg (by omega), if_neg (by omega), if_pos hwindow, hindex]

/-- The entries that hold no threshold are 0. -/
theorem State.Inv.thrAt_unused {s : State} (h : s.Inv) {i : Nat} (hi : s.thrValid = false ∨ s.thrN.toNat < i) :
    s.thrAt i = 0#16 := by
  obtain hv | hi := hi
  · obtain ⟨-, hzero⟩ := h.no_thresholds hv
    exact hzero i
  · exact h.thr_above i hi

/-- A 4-byte read of an aligned address below the OUT window answers the word there. -/
theorem response_of_readWord {s t : State} {a : BitVec 16} {rest : List Event} {n : Nat} (ha : a.toNat = n)
    (halign : n % 4 = 0) (hlt : n < 0x2000) (hp : s.pending = .bus (.read a .w4) :: rest)
    (hstep : step s = .next t) : t.response = some (.okay (some (s.wordAt n))) := by
  subst ha
  have hl : (Transaction.read a .w4).legal = true := (Transaction.legal_iff _).mpr ⟨halign, .inr rfl⟩
  rw [step_read hp hl, s.readData_word halign hlt] at hstep
  cases hstep
  rfl

/-- Settles O36: each register is the word at its address. -/
theorem registersReadBack : Obligations.RegistersReadBack := by
  intro s t a rest hp hstep
  have hread : ∀ n, n % 4 = 0 → n < 0x2000 → a.toNat = n → t.response = some (.okay (some (s.wordAt n))) :=
    fun n halign hlt ha => response_of_readWord ha halign hlt hp hstep
  refine ⟨?cmd, ?status, ?minFreq, ?maxFreq, ?numBars, ?scheme, ?result, ?thrN⟩
  case cmd => simpa using hread 0x00
  case status => simpa using hread 0x04
  case minFreq => simpa using hread 0x08
  case maxFreq => simpa using hread 0x0C
  case numBars => simpa using hread 0x10
  case scheme => simpa using hread 0x14
  case result => simpa using hread 0x18
  case thrN => simpa using hread 0x1C

/-- Settles O37: the window's words are the entries, the words after it are reserved, writes store nothing there, and below
0x2000 a narrow or misaligned read is illegal. -/
theorem thrWindowReadsTheThresholds : Obligations.ThrWindowReadsTheThresholds := by
  refine ⟨fun s t a i rest hinv hi ha hp hstep => ?_, fun s t a rest hge hlt halign hp hstep => ?_,
    fun s a v rest hge hlt halign hp => ?_, fun s a w rest hge hlt hbad hp => ?_⟩
  · have hread := response_of_readWord ha (by omega) (by omega) hp hstep
    rw [s.wordAt_thr hi] at hread
    refine ⟨hread, fun hunused => ?_⟩
    rw [hread, hinv.thrAt_unused hunused, BitVec.setWidth_zero]
  · rw [response_of_readWord rfl halign hlt hp hstep, s.wordAt_reserved (by omega)]
  · exact step_write_ignored hp ((Transaction.legal_iff _).mpr ⟨halign, .inr rfl⟩) (by omega)
  · have hillegal : (Transaction.read a w).legal = false := by
      refine (Transaction.legal_eq_false_iff _).mpr ?_
      by_cases hw : w = .w4
      · subst hw
        exact .inl (hbad.resolve_left (not_not.mpr rfl))
      · exact .inr ⟨hw, hlt⟩
    exact ⟨_, step_illegal hp hillegal, rfl⟩

/-! ### The OUT window (R55) -/

theorem State.byteAt_out (s : State) {k : Nat} (hk : k < 768) : s.byteAt (0x2000 + k) = s.outAt k := by
  rw [byteAt, if_neg (show ¬ 0x2000 + k < narrowBase by rw [narrowBase]; omega),
    if_pos (show 0x2000 + k < outEnd by rw [outEnd]; omega)]
  rfl

/-- Settles O54: an aligned read inside the window is legal, and each of its bytes is a byte of OUT. -/
theorem outWindowReadsTheBlob : Obligations.OutWindowReadsTheBlob := by
  refine ⟨fun s a w k rest ha hk hend hp => ?_, fun s k hk => s.byteAt_out hk,
    fun s a w v k rest ha hk hend hp => ?_⟩
  · have hout : 0x2000 ≤ a.toNat := by omega
    have hl : (Transaction.read a w).legal = true :=
      (Transaction.legal_iff _).mpr ⟨w.aligned_of_offset ha hk, .inl hout⟩
    refine ⟨_, step_read hp hl, (s.readData_toNat _).trans (Finset.sum_congr rfl fun j hj => ?_)⟩
    have hj : j < w.bytes := Finset.mem_range.mp hj
    rw [Transaction.addr, ha, Nat.add_assoc, s.byteAt_out (by omega)]
  · have hout : 0x2000 ≤ a.toNat := by omega
    have hl : (Transaction.write a w v).legal = true :=
      (Transaction.legal_iff _).mpr ⟨w.aligned_of_offset ha hk, .inl hout⟩
    exact step_write_ignored hp hl (by omega)

end Sys2Proof.Machine
end

section
/-! The decoder and the encoder (R70 to R74): the fields of a packed word, when each decoding arm accepts, and that the words of commands, the
words that decode and the legal words are the same words. -/

namespace Sys2Proof.Machine

/-! ### Fields of a packed word (R70) -/

@[simp] theorem opField_packWord (op : BitVec 4) (range : BitVec 2) (arg : Half) :
    opField (packWord op range arg) = op := (Laws.EncodedOpcode.field_packWord op range arg).1

@[simp] theorem rsvField_packWord (op : BitVec 4) (range : BitVec 2) (arg : Half) :
    rsvField (packWord op range arg) = 0#10 := (Laws.EncodedOpcode.field_packWord op range arg).2

@[simp] theorem rangeField_packWord (op : BitVec 4) (range : BitVec 2) (arg : Half) :
    rangeField (packWord op range arg) = range := by
  ext k hk
  have h16 : 4 + k < 16 := by omega
  have h32 : 4 + k < 32 := by omega
  have h32 : k < 32 := by omega
  simp [rangeField, packWord, h16, h32, hk]
  omega

@[simp] theorem argField_packWord (op : BitVec 4) (range : BitVec 2) (arg : Half) :
    argField (packWord op range arg) = arg := by
  ext k hk
  have hop : op.getLsbD (16 + k) = false := BitVec.getLsbD_of_ge _ _ (by omega)
  have hrange : range.getLsbD (16 + k - 4) = false := BitVec.getLsbD_of_ge _ _ (by omega)
  have h32 : k < 32 ∧ 16 + k < 32 := by omega
  simp [argField, packWord, hop, hrange, h32, hk]

/-- A word with RSV = 0 is packed from its other fields. -/
theorem packWord_eq_of_fields {w : Word} {op : BitVec 4} {range : BitVec 2} {arg : Half} (hop : opField w = op)
    (hrange : rangeField w = range) (hrsv : rsvField w = 0#10) (harg : argField w = arg) :
    packWord op range arg = w := by
  apply word_eq_of_fields
  · rw [opField_packWord, hop]
  · rw [rangeField_packWord, hrange]
  · rw [rsvField_packWord, hrsv]
  · rw [argField_packWord, harg]

/-! ### Ranges and indices in their fields -/

@[simp] theorem rangeOfField_fieldOfRange (r : Range) : rangeOfField (fieldOfRange r) = some r := by
  cases r <;> rfl

theorem rangeOfField_eq_none_iff (f : BitVec 2) : rangeOfField f = none ↔ f = 3#2 := by
  revert f; decide

theorem fieldOfRange_of_rangeOfField {f : BitVec 2} {r : Range} (h : rangeOfField f = some r) : fieldOfRange r = f := by
  revert f; cases r <;> decide

/-- The number in ARG of a QFREQ is its index (R72). -/
theorem toNat_zero_append (idx : Byte) : (0#8 ++ idx : Half).toNat = idx.toNat := by
  have happend : (0#8 ++ idx : Half).toNat = (0#8).toNat <<< 8 ||| idx.toNat := BitVec.toNat_append 0#8 idx
  rw [happend, BitVec.toNat_ofNat, Nat.zero_mod, Nat.zero_shiftLeft, Nat.zero_or]

@[simp] theorem extract_high_append (idx : Byte) : (0#8 ++ idx : Half).extractLsb' 8 8 = 0#8 := by
  apply BitVec.eq_of_toNat_eq
  rw [BitVec.extractLsb'_toNat, toNat_zero_append, Nat.shiftRight_eq_div_pow, Nat.div_eq_of_lt idx.isLt]
  rfl

@[simp] theorem extract_low_append (idx : Byte) : (0#8 ++ idx : Half).extractLsb' 0 8 = idx := by
  apply BitVec.eq_of_toNat_eq
  rw [BitVec.extractLsb'_toNat, toNat_zero_append, Nat.shiftRight_zero, Nat.mod_eq_of_lt idx.isLt]

/-- A half with an empty high byte is its low byte. -/
theorem append_extract_low {a : Half} (h : a.extractLsb' 8 8 = 0#8) : 0#8 ++ a.extractLsb' 0 8 = a := by
  rw [← h]
  exact (BitVec.extractLsb'_append_extractLsb'_eq_extractLsb' (by decide)).trans BitVec.extractLsb'_eq_self

/-! ### When an arm of the decoder accepts (R73) -/

theorem decodeBuild_ok_iff {w : Word} {i : Instr} :
    decodeBuild w = .ok i ↔ ∃ r, rangeOfField (rangeField w) = some r ∧ argField w = 0#16 ∧ .build r = i := by
  unfold decodeBuild
  split
  · next h => simp [h]
  · next r h => split_ifs with ha <;> simp_all

theorem decodeResolve_ok_iff {w : Word} {i : Instr} :
    decodeResolve w = .ok i ↔ ∃ r, rangeOfField (rangeField w) = some r ∧ .resolve r (argField w) = i := by
  unfold decodeResolve
  split <;> simp_all

theorem decodeQfreq_ok_iff {w : Word} {i : Instr} :
    decodeQfreq w = .ok i ↔ ∃ r, rangeOfField (rangeField w) = some r ∧ (argField w).extractLsb' 8 8 = 0#8 ∧
      .qfreq r ((argField w).extractLsb' 0 8) = i := by
  unfold decodeQfreq
  split
  · next h => simp [h]
  · next r h => split_ifs with ha <;> simp_all

/-! ### The round trip -/

/-- Settles O1: each command's word has the fields that its decoding arm asks for. -/
theorem decodeOfEncodeIsTheCommand : Obligations.DecodeOfEncodeIsTheCommand := by
  intro i
  cases i with
  | nop => simp [encode, decode, decodePlain_ok_iff]
  | genThr => simp [encode, decode, decodePlain_ok_iff]
  | build r => simp [encode, decode, decodeBuild_ok_iff]
  | commit => simp [encode, decode, decodePlain_ok_iff]
  | run => simp [encode, decode, decodePlain_ok_iff]
  | resolve r f => simp [encode, decode, decodeResolve_ok_iff]
  | qfreq r idx => simp [encode, decode, decodeQfreq_ok_iff]
  | clrerr => simp [encode, decode, decodePlain_ok_iff]
  | sreset => simp [encode, decode, decodePlain_ok_iff]

/-- A command without operands that decodes from `w` has the word `w`. -/
theorem encode_of_decodePlain {w : Word} {i j : Instr} {op : BitVec 4} (hi : encode i = packWord op 0#2 0#16)
    (hop : opField w = op) (hrsv : rsvField w = 0#10) (h : decodePlain w i = .ok j) : encode j = w := by
  obtain ⟨hrange, harg, rfl⟩ := decodePlain_ok_iff.mp h
  exact hi.trans (packWord_eq_of_fields hop hrange hrsv harg)

/-- Settles O2: on the way to a command the decoder has looked at every field of the word. -/
theorem encodeOfDecodedWordIsTheWord : Obligations.EncodeOfDecodedWordIsTheWord := by
  intro w i h
  unfold decode at h
  split_ifs at h with h9 hrsv h0 h1 h2 h3 h4 h5 h6 h7
  all_goals rw [not_not] at hrsv
  · exact encode_of_decodePlain rfl h0 hrsv h
  · exact encode_of_decodePlain rfl h1 hrsv h
  · obtain ⟨r, hr, ha, rfl⟩ := decodeBuild_ok_iff.mp h
    exact packWord_eq_of_fields h2 (fieldOfRange_of_rangeOfField hr).symm hrsv ha
  · exact encode_of_decodePlain rfl h3 hrsv h
  · exact encode_of_decodePlain rfl h4 hrsv h
  · obtain ⟨r, hr, rfl⟩ := decodeResolve_ok_iff.mp h
    exact packWord_eq_of_fields h5 (fieldOfRange_of_rangeOfField hr).symm hrsv rfl
  · obtain ⟨r, hr, ha, rfl⟩ := decodeQfreq_ok_iff.mp h
    exact packWord_eq_of_fields h6 (fieldOfRange_of_rangeOfField hr).symm hrsv (append_extract_low ha).symm
  · exact encode_of_decodePlain rfl h7 hrsv h
  · have h8 : opField w = 8#4 := by bv_omega
    exact encode_of_decodePlain rfl h8 hrsv h

/-! ### Legal words (R73) -/

theorem bits_eq_toNat_extractLsb' (w : Word) (hi lo : Nat) :
    WellFormed.bits w hi lo = (w.extractLsb' lo (hi + 1 - lo)).toNat := by
  rw [WellFormed.bits, BitVec.extractLsb'_toNat, Nat.shiftRight_eq_div_pow]

theorem bits_op (w : Word) : WellFormed.bits w 3 0 = (opField w).toNat := bits_eq_toNat_extractLsb' w 3 0
theorem bits_range (w : Word) : WellFormed.bits w 5 4 = (rangeField w).toNat := bits_eq_toNat_extractLsb' w 5 4
theorem bits_rsv (w : Word) : WellFormed.bits w 15 6 = (rsvField w).toNat := bits_eq_toNat_extractLsb' w 15 6
theorem bits_arg (w : Word) : WellFormed.bits w 31 16 = (argField w).toNat := bits_eq_toNat_extractLsb' w 31 16

theorem bits_argHigh (w : Word) : WellFormed.bits w 31 24 = ((argField w).extractLsb' 8 8).toNat := by
  simp only [WellFormed.bits, argField, BitVec.extractLsb'_toNat, Nat.shiftRight_eq_div_pow]
  omega

/-- The checks of R73 on the fields of the word, in the order of `legalWord`. -/
theorem legalWord_iff (w : Word) : WellFormed.legalWord w = true ↔
    ((((opField w ≤ 8#4 ∧ rsvField w = 0#10) ∧
    (((opField w = 2#4 ∨ opField w = 5#4) ∨ opField w = 6#4) ∨ rangeField w = 0#2)) ∧
    (¬ ((opField w = 2#4 ∨ opField w = 5#4) ∨ opField w = 6#4) ∨ rangeField w ≠ 3#2)) ∧
    ((opField w = 5#4 ∨ opField w = 6#4) ∨ argField w = 0#16)) ∧
    (opField w ≠ 6#4 ∨ (argField w).extractLsb' 8 8 = 0#8) := by
  simp only [WellFormed.legalWord, WellFormed.opAssigned, WellFormed.reservedClear, WellFormed.rangeUnusedClear,
    WellFormed.rangeNotReserved, WellFormed.argUnusedClear, WellFormed.indexFitsByte, WellFormed.usesRange,
    bits_op, bits_range, bits_rsv, bits_arg, bits_argHigh, Bool.and_eq_true, Bool.or_eq_true, Bool.not_eq_true',
    ← Bool.not_eq_true, decide_eq_true_eq, beq_iff_eq, bne_iff_ne]
  simp only [← BitVec.toNat_inj, Ne, BitVec.le_def, BitVec.toNat_ofNat]

theorem exists_decodePlain_ok_iff (w : Word) (i : Instr) :
    (∃ j, decodePlain w i = .ok j) ↔ rangeField w = 0#2 ∧ argField w = 0#16 := by
  simp [decodePlain_ok_iff]

theorem exists_rangeOfField_iff (f : BitVec 2) : (∃ r, rangeOfField f = some r) ↔ f ≠ 3#2 := by
  rw [← Option.ne_none_iff_exists', Ne, rangeOfField_eq_none_iff]

/-- The decoder accepts the legal words: arm by arm, what it asks of the fields is what R73 asks for that opcode. -/
theorem exists_decode_ok_iff (w : Word) : (∃ i, decode w = .ok i) ↔ WellFormed.legalWord w = true := by
  rw [legalWord_iff]
  unfold decode
  split_ifs with h9 hrsv h0 h1 h2 h3 h4 h5 h6 h7
  · have h8 : ¬ opField w ≤ 8#4 := by bv_omega
    simp [h8]
  · simp [hrsv]
  all_goals rw [not_not] at hrsv
  · simp [hrsv, h0, exists_decodePlain_ok_iff]
  · simp [hrsv, h1, exists_decodePlain_ok_iff]
  · simp [hrsv, h2, decodeBuild_ok_iff, exists_and_right, exists_rangeOfField_iff]
  · simp [hrsv, h3, exists_decodePlain_ok_iff]
  · simp [hrsv, h4, exists_decodePlain_ok_iff]
  · simp [hrsv, h5, decodeResolve_ok_iff, exists_rangeOfField_iff]
  · simp [hrsv, h6, decodeQfreq_ok_iff, exists_rangeOfField_iff]
  · simp [hrsv, h7, exists_decodePlain_ok_iff]
  · have h8 : opField w = 8#4 := by bv_omega
    simp [hrsv, h8, exists_decodePlain_ok_iff]

/-- The command's fields are those its word is packed from. -/
theorem fieldsOf_eq (i : Instr) : fieldsOf i =
    ((opField (encode i)).toNat, (rangeField (encode i)).toNat, (argField (encode i)).toNat) := by
  cases i <;> simp [encode, fieldsOf, toNat_zero_append]

/-- Settles O3: a decoded word is the word of its command, and so has its fields. -/
theorem decodeFollowsTheSpecsDecodeFunction : Obligations.DecodeFollowsTheSpecsDecodeFunction := by
  intro w
  refine ⟨exists_decode_ok_iff w, fun i h => ?_⟩
  rw [fieldsOf_eq, encodeOfDecodedWordIsTheWord w i h, bits_op, bits_range, bits_arg]

/-- Settles O6: a word that is not legal does not decode. -/
theorem illegalWordRecordsCmdIllegalOnly : Obligations.IllegalWordRecordsCmdIllegalOnly := by
  constructor
  · intro w
    refine (Bool.eq_false_or_eq_true (WellFormed.legalWord w)).imp_left fun hlegal => ?_
    obtain ⟨i, hi⟩ := (exists_decode_ok_iff w).mpr hlegal
    exact ⟨i, encodeOfDecodedWordIsTheWord w i hi, hi⟩
  · intro s w rest hp hillegal
    have hl : (Transaction.write 0x0000#16 .w4 w).legal = true := rfl
    have hcmd : (0x0000#16).toNat = addrCmd := rfl
    rcases hd : decode w with e | i
    · rw [step_bus hp, State.transact, if_pos hl, State.legalTransact, if_pos hcmd, State.onCmdWrite_error hd]
      rfl
    · exact absurd ((exists_decode_ok_iff w).mp ⟨i, hd⟩) (by rw [hillegal]; exact Bool.false_ne_true)

end Sys2Proof.Machine
end

section
/-! The scheme presets (R81, R82), the representative frequencies (R121), and the resolution as the spec's loop (R122). -/

namespace Sys2Proof.Machine

/-! ### Presets and representative frequencies (R81, R82, R121) -/

theorem freqOf_eq_some_iff {sch : Scheme} {r : Range} {idx f : Nat} : freqOf sch r idx = some f ↔
    idx < (preset sch r).count ∧
      (preset sch r).base + idx * 2 ^ (preset sch r).shift + (preset sch r).offset = f := by
  rw [freqOf]
  split <;> simp <;> omega

/-- The high range alone clamps. -/
theorem preset_clamp (sch : Scheme) (r : Range) : (preset sch r).clamp = decide (r = .high) := by
  cases sch <;> cases r <;> rfl

/-- The highest representative frequency of each range fits 16 bits. -/
theorem preset_top_le (sch : Scheme) (r : Range) :
    (preset sch r).base + ((preset sch r).count - 1) * 2 ^ (preset sch r).shift + (preset sch r).offset ≤ 0xFFFF := by
  cases sch <;> cases r <;> decide

theorem preset_count_pos (sch : Scheme) (r : Range) : 1 ≤ (preset sch r).count := by
  cases sch <;> cases r <;> decide

theorem preset_count_le (sch : Scheme) (r : Range) : (preset sch r).count ≤ 256 := by
  cases sch <;> cases r <;> decide

/-- No frequency is above that of the highest index. -/
theorem freqOf_le {sch : Scheme} {r : Range} {idx f : Nat} (h : freqOf sch r idx = some f) : f ≤ 0xFFFF := by
  obtain ⟨hidx, rfl⟩ := freqOf_eq_some_iff.mp h
  have hmul := Nat.mul_le_mul_right (2 ^ (preset sch r).shift) (Nat.le_sub_one_of_lt hidx)
  have htop := preset_top_le sch r
  omega

theorem schemeOfWord_eq (w : Word) : schemeOfWord w = if w.toNat = 0 then .variantA else .variantB := by
  rw [schemeOfWord]
  congr 1
  exact propext BitVec.toNat_inj.symm

/-- The source's formulas for the representative frequency (R81, R121). -/
theorem freqOf_eq (w : Word) (r : Range) {idx : Nat} (h : idx < 256) : freqOf (schemeOfWord w) r idx =
    (match r with
    | .low => some (idx * 16 + 8)
    | .high => some (idx * 256 + 128)
    | .mid =>
      if w.toNat = 0 then some (0x1000 + idx * 32 + 16)
      else if idx < 192 then some (0x1000 + idx * 64 + 32)
      else none) := by
  have hcount : ¬ 256 ≤ idx := Nat.not_le.mpr h
  rw [schemeOfWord_eq]
  cases r with
  | low => split_ifs <;> simp [freqOf, preset, hcount]
  | high => split_ifs <;> simp [freqOf, preset, hcount]
  | mid =>
    split_ifs with hw hidx
    · simp [freqOf, preset, hcount]
    · simp [freqOf, preset, Nat.not_le.mpr hidx]
    · exact freqOf_variantB_mid (Nat.le_of_not_lt hidx)

/-- Settles O44: the table row by row, and the bounds from its highest frequency. -/
theorem presetsAreWellFormed : Obligations.PresetsAreWellFormed := fun sch r =>
  ⟨by cases sch <;> cases r <;> rfl, preset_count_pos sch r, preset_count_le sch r, preset_top_le sch r,
    fun _ _ => freqOf_le⟩

/-! ### The resolution is the spec's loop (R122) -/

/-- A scan finds the first pair of neighbours of its list that holds the frequency. -/
theorem scan_eq_find? (f b : Nat) (l : List Half) : scan f b l =
    ((List.range (l.length - 1)).find? fun i =>
      decide ((l.getD i 0#16).toNat ≤ f ∧ f < (l.getD (i + 1) 0#16).toNat)).map (b + ·) := by
  induction l generalizing b with
  | nil => rfl
  | cons lo rest ih =>
    cases rest with
    | nil => rfl
    | cons hi rest =>
      have hrange : List.range ((lo :: hi :: rest).length - 1) =
          0 :: (List.range ((hi :: rest).length - 1)).map Nat.succ := List.range_succ_eq_map
      rw [scan, hrange, List.find?_cons]
      split
      · next h => simp [h]
      · next h =>
        rw [ih, List.find?_map]
        simp [h, Function.comp_def, Nat.add_assoc, Nat.add_comm 1]

/-- The model's scan of the table's first boundaries is the spec's loop over the bars (R122). -/
theorem resolve_eq_specResolve {table : List Half} {n : Nat} (h : n < table.length) (f : Nat) (clamp : Bool) :
    resolve table n f clamp = specResolve table n f clamp := by
  have hlen : (table.take (n + 1)).length - 1 = n := by rw [List.length_take]; omega
  have hscan : scan f 0 (table.take (n + 1)) = (List.range n).find? fun b =>
      decide ((table.getD b 0#16).toNat ≤ f ∧ f < (table.getD (b + 1) 0#16).toNat) := by
    rw [scan_eq_find?, hlen]
    simp only [Nat.zero_add, Option.map_id_fun', id]
    refine List.find?_congr fun b hb => ?_
    have hb : b < n := List.mem_range.mp hb
    have htake : ∀ i, i < n + 1 → (table.take (n + 1)).getD i 0#16 = table.getD i 0#16 := fun i hi => by
      rw [List.getD, List.getElem?_take_of_lt hi, ← List.getD]
    rw [htake b (by omega), htake (b + 1) (by omega)]
  cases hfind : (List.range n).find? fun b =>
      decide ((table.getD b 0#16).toNat ≤ f ∧ f < (table.getD (b + 1) 0#16).toNat) with
  | none => simp only [resolve, specResolve, hscan, hfind]
  | some b => simp only [resolve, specResolve, hscan, hfind]

end Sys2Proof.Machine
end

section
/-! RESOLVE, QFREQ and COMMIT of an idle block, through their acceptance (R150, R171) and their completion (R131, R133, R151, R153). -/

namespace Sys2Proof.Machine

/-! ### Acceptance -/

theorem schemeChecks_of_le {c : InFlight} (h : c.scheme.toNat ≤ 1) : ∀ d ∈ schemeChecks c, d.2 = false := by
  have hle : ¬ 1#32 < c.scheme := by bv_omega
  simp [schemeChecks, hle]

theorem thresholdsPresentChecks_of_valid {s : State} (h : s.thrValid = true) :
    ∀ d ∈ thresholdsPresentChecks s, d.2 = false := by
  simp [thresholdsPresentChecks, h]

theorem tablesCompleteChecks_of_complete {s : State} (hv : ∀ r, (s.work r).valid = true)
    (hs : ∀ r r', (s.work r).scheme = (s.work r').scheme) : ∀ d ∈ tablesCompleteChecks s, d.2 = false := by
  have hlow : s.low.valid = true := hv .low
  have hmid : s.mid.valid = true := hv .mid
  have hhigh : s.high.valid = true := hv .high
  have hlm : s.low.scheme = s.mid.scheme := hs .low .mid
  have hmh : s.mid.scheme = s.high.scheme := hs .mid .high
  simp [tablesCompleteChecks, hlow, hmid, hhigh, hlm, hmh]

/-- An idle block whose checks pass accepts. -/
theorem State.acceptLong_of_checks {s : State} {cs : List (ErrCode × Bool)} (hi : s.inflight = none)
    (h : ∀ d ∈ cs, d.2 = false) (rec : InFlight) : s.acceptLong rec cs = { s with inflight := some rec } :=
  acceptLong_of_passing hi ((firstFailing_none_iff cs).mpr h) rec

/-! ### Completion -/

/-- A completion is given its record, reads no input, and leaves nothing in flight. -/
theorem completeRecord_flight (c : InFlight) (s : State) (x : Option InFlight) (es : List Event) :
    completeRecord c { s with inflight := x, pending := es } = { completeRecord c s with pending := es } := by
  rw [completeRecord, completeRecord]
  cases c.op <;> rfl

/-- The engine's turn next, the command just accepted completes. -/
theorem step_completes {s : State} {rest : List Event} (hp : s.pending = .engine :: rest) (c : InFlight) :
    step { s with inflight := some c } = .next { completeRecord c s with pending := rest } := by
  rw [← completeRecord_flight c s (some c)]
  exact step_engine hp

/-! ### RESOLVE (R131) -/

/-- RESULT is a sum of its fields (R84). -/
theorem resolveResult_toNat {b : Nat} (hb : b < 256) (k : Kind) : (resolveResult b k).toNat =
    b + (if k = .clamp then 2 ^ 8 else 0) + (if k = .fallback then 2 ^ 9 else 0) := by
  have hor : ∀ i, 8 ≤ i → b ||| 2 ^ i = b + 2 ^ i := fun i hi => by
    have hlt : b < 2 ^ i := hb.trans_le (Nat.pow_le_pow_right Nat.two_pos hi)
    rw [Nat.lor_comm, Nat.add_comm, ← Nat.mul_one (2 ^ i), Nat.two_pow_add_eq_or_of_lt hlt]
  have hmod : b % 4294967296 = b := Nat.mod_eq_of_lt (by omega)
  cases k with
  | scan => simp [resolveResult, bitAt, hmod]
  | clamp => simpa [resolveResult, bitAt, hmod] using hor 8 (by decide)
  | fallback => simpa [resolveResult, bitAt, hmod] using hor 9 (by decide)

/-- RESOLVE's completion, with the resolution as the spec's loop, the high range alone clamping. -/
theorem completeResolve_eq {s : State} (h : s.thrN.toNat < s.thr.length) (c : InFlight) {b : Nat} {k : Kind}
    (hbk : specResolve s.thr s.thrN.toNat c.arg.toNat (decide (c.range = .high)) = (b, k)) :
    completeResolve c s = { s with
      result := resolveResult b k
      unreach := s.unreach || decide (k = .fallback)
      clampHit := s.clampHit || decide (k = .clamp)
      inflight := none } := by
  have hres : s.resolveInFlight c = (b, k) := by
    rw [State.resolveInFlight, preset_clamp, resolve_eq_specResolve h, hbk]
  simp [completeResolve, State.noteKinds, State.finish, hres, eq_comm]

theorem exec_resolve_accepted {s : State} (hi : s.inflight = none) (hscheme : s.scheme.toNat ≤ 1)
    (hv : s.thrValid = true) (r : Range) (f : Half) :
    exec (.resolve r f) s = .next { s with inflight := flightOf s (.resolve r f) } :=
  congrArg _ (State.acceptLong_of_checks hi
    (List.forall_mem_append.mpr ⟨schemeChecks_of_le hscheme, thresholdsPresentChecks_of_valid hv⟩) _)

/-- Settles O23: the completion makes the resolution in flight, which is the spec's and answers a bar of the table. -/
theorem resolveWritesTheResolutionToResult : Obligations.ResolveWritesTheResolutionToResult := by
  intro s r f rest hi hscheme hv hinv hp
  obtain ⟨hn, hn'⟩ := hinv.thrN_legal hv
  have hlen : s.thrN.toNat < s.thr.length := by rw [hinv.thr_length]; omega
  rcases hbk : specResolve s.thr s.thrN.toNat f.toNat (decide (r = .high)) with ⟨b, k⟩
  have hb : b < s.thrN.toNat := by
    simpa only [resolve_eq_specResolve hlen, hbk] using resolve_lt hn s.thr f.toNat (decide (r = .high))
  have hcomplete : completeRecord (s.snapshot .resolve r f) s = _ := completeResolve_eq hlen _ hbk
  have hstep := step_completes hp (s.snapshot .resolve r f)
  rw [hcomplete, ← hi] at hstep
  exact ⟨_, _, b, k, exec_resolve_accepted hi hscheme hv r f, rfl, hstep, rfl, resolveResult_toNat (hb.trans_le hn') k,
    hb.trans_le hn', rfl⟩

/-! ### QFREQ (R133) -/

/-- RESULT holds the frequency (R84). -/
theorem qfreqResult_some_toNat {f : Nat} (h : f ≤ 0xFFFF) : (qfreqResult (some f)).toNat = f :=
  Nat.mod_eq_of_lt (by omega)

theorem exec_qfreq_accepted {s : State} (hi : s.inflight = none) (hscheme : s.scheme.toNat ≤ 1) (r : Range)
    (idx : Byte) : exec (.qfreq r idx) s = .next { s with inflight := flightOf s (.qfreq r idx) } :=
  congrArg _ (State.acceptLong_of_checks hi (schemeChecks_of_le hscheme) _)

/-- Settles O24: the completion writes the frequency of the index in flight, which fits its field. -/
theorem qfreqWritesTheFrequencyToResult : Obligations.QfreqWritesTheFrequencyToResult := by
  intro s r idx rest hi hscheme hp
  refine ⟨_, _, exec_qfreq_accepted hi hscheme r idx, rfl, step_completes hp _, ?_, ?_⟩
  · show (qfreqResult (freqOf (schemeOfWord s.scheme) r (idx.setWidth 16).toNat)).toNat = _
    have hidx := idx.isLt
    rw [BitVec.toNat_setWidth_of_le (by decide), freqOf_eq s.scheme r hidx]
    cases r with
    | low => exact qfreqResult_some_toNat (by omega)
    | high => exact qfreqResult_some_toNat (by omega)
    | mid =>
      dsimp only
      split_ifs
      · exact qfreqResult_some_toNat (by omega)
      · exact qfreqResult_some_toNat (by omega)
      · rfl
  · show { s with result := _, inflight := none, pending := rest } = _
    rw [← hi]

/-! ### COMMIT (R153) -/

theorem State.outAt_serialize {s : State} (h : ∀ r, (s.work r).data.length = 256) (sch : Scheme) (r : Range) {k : Nat}
    (hk : k < 256) : (s.serialize sch).outAt (blobOffset r + k) = (s.work r).at k := by
  have hlow : s.low.data.length = 256 := h .low
  have hmid : s.mid.data.length = 256 := h .mid
  have hhigh : s.high.data.length = 256 := h .high
  have hread : ∀ j, j < 768 → (s.serialize sch).outAt j =
      (s.low.data ++ s.mid.data ++ s.high.data).getD j Memory.unlisted := fun j hj =>
    Memory.read_ofBytes_inside _ _ _ (by simp only [List.length_append, hlow, hmid, hhigh]; exact hj)
  cases r with
  | low =>
    rw [hread _ (by rw [blobOffset]; omega), blobOffset, Nat.zero_add, List.append_assoc,
      List.getD_append _ _ _ _ (by omega)]
    rfl
  | mid =>
    rw [blobOffset, outAt_serialize_mid hlow hmid sch (Nat.le_add_right _ _) (Nat.add_lt_add_left hk 256),
      Nat.add_sub_cancel_left]
    rfl
  | high =>
    have hlen : (s.low.data ++ s.mid.data).length = 512 := by rw [List.length_append, hlow, hmid]
    rw [hread _ (by rw [blobOffset]; omega), blobOffset, List.getD_append_right _ _ _ _ (by omega), hlen,
      Nat.add_sub_cancel_left]
    rfl

theorem State.read_serialize_outside {s : State} (h : ∀ r, (s.work r).data.length = 256) (sch : Scheme) {a : Nat}
    (ha : a < 0x2000 ∨ 0x2300 ≤ a) : (s.serialize sch).out.read a = 0#8 := by
  have hlow : s.low.data.length = 256 := h .low
  have hmid : s.mid.data.length = 256 := h .mid
  have hhigh : s.high.data.length = 256 := h .high
  refine Memory.read_ofBytes_outside ?_
  simp only [List.length_append, hlow, hmid, hhigh]
  exact ha

theorem exec_commit_accepted {s : State} (hi : s.inflight = none) (hv : ∀ r, (s.work r).valid = true)
    (hs : ∀ r r', (s.work r).scheme = (s.work r').scheme) :
    exec .commit s = .next { s with inflight := flightOf s .commit } :=
  congrArg _ (State.acceptLong_of_checks hi (tablesCompleteChecks_of_complete hv hs) _)

/-- Settles O25: the completion serializes the three tables as they were at the acceptance. -/
theorem commitWritesTheBlob : Obligations.CommitWritesTheBlob := by
  intro s rest hi hv hs hinv hp
  refine ⟨_, _, exec_commit_accepted hi hv hs, rfl, step_completes hp _, fun r k hk => ?_, fun a ha => ?_, ?_, ?_⟩
  · exact s.outAt_serialize hinv.work_length s.low.scheme r hk
  · exact s.read_serialize_outside hinv.work_length s.low.scheme ha
  · exact s.serialize_out_wf s.low.scheme
  · show { s.serialize s.low.scheme with inflight := none, pending := rest } = _
    rw [← hi]
    rfl

end Sys2Proof.Machine
end

section
/-! The rounded arithmetic of R104 and the thresholds it gives (R105, R106): each step is correctly rounded, and the thresholds rise from MIN_FREQ
to MAX_FREQ. -/

namespace Sys2Proof.Machine

/-! ### Correct rounding (R104) -/

/-- Settles O40: the remainder of the division decides which neighbour is nearest. -/
theorem round64IsNearestEven : Obligations.Round64IsNearestEven :=
  fun num _ hden => round64_isNearestEven num hden

/-- Settles O41: an enclosure of the real power, or the exact fallback, rounds as the power does. -/
theorem pow64IsCorrectlyRounded : Obligations.Pow64IsCorrectlyRounded :=
  fun _ _ hq _ _ he => pow64_isNearestEven hq he

/-! ### The thresholds of a legal configuration (R105, R106) -/

theorem LegalConfig.thrFloor_le_max {min max n : Word} (hc : LegalConfig min max n) {i : Nat} (hi : i ≤ n.toNat) :
    thrFloor min.toNat max.toNat n.toNat i ≤ max.toNat :=
  (hc.thrFloor_mono hi le_rfl).trans_eq hc.thrFloor_top

/-- Settles O42: the floor is MAX_FREQ at the top and rises up to it, so the truncation has nothing to cut off. -/
theorem topThresholdIsMaxFreq : Obligations.TopThresholdIsMaxFreq := fun _ _ _ hc =>
  ⟨hc.thrFloor_top, (hc.thr_eq_thrFloor le_rfl).trans hc.thrFloor_top,
    fun _ _ hi => ⟨hc.thrFloor_le_max hi, hc.thrFloor_lt hi, hc.thr_eq_thrFloor hi⟩⟩

/-- Settles O43: the truncation changes nothing, and the floor has these bounds and this order. -/
theorem thresholdsRiseBetweenMinAndMax : Obligations.ThresholdsRiseBetweenMinAndMax := by
  refine fun min max n hc => ⟨fun i _ hi => ?_, fun i _ hi => ?_⟩
  · rw [hc.thr_eq_thrFloor hi]
    exact ⟨hc.min_le_thrFloor hi, hc.thrFloor_le_max hi⟩
  · rw [hc.thr_eq_thrFloor hi.le, hc.thr_eq_thrFloor hi]
    exact hc.thrFloor_mono i.le_succ hi

/-! ### The steps of the threshold formula, over the reals (R104) -/

/-- A quotient of whole numbers, in units. -/
theorem round64_ratio_isNearestEven (a : Nat) {b : Nat} (hb : 0 < b) :
    IsNearestEven (round64 (a * unit64) b) ((unit64 : ℝ) * ((a : ℝ) / b)) := by
  rw [← mul_div_assoc, mul_comm (unit64 : ℝ), ← Nat.cast_mul]
  exact round64_isNearestEven _ hb

/-- Rounding a whole number of units. -/
theorem round64_one_isNearestEven (m : Nat) : IsNearestEven (round64 m 1) m := by
  simpa only [Nat.cast_one, div_one] using round64_isNearestEven m one_pos

theorem round64_mul_isNearestEven (m p : Nat) : IsNearestEven (round64 (m * p) 1) ((m : ℝ) * p) := by
  rw [← Nat.cast_mul]
  exact round64_one_isNearestEven (m * p)

/-- 0.5 is a whole number of units, so adding it is exact before the rounding. -/
theorem round64_add_half_isNearestEven (x : Nat) :
    IsNearestEven (round64 (x + unit64 / 2) 1) ((x : ℝ) + (unit64 : ℝ) / 2) := by
  have hhalf : ((unit64 / 2 : ℕ) : ℝ) = (unit64 : ℝ) / 2 := Nat.cast_div_charZero (dvd_pow_self 2 (by norm_num))
  rw [← hhalf, ← Nat.cast_add]
  exact round64_one_isNearestEven (x + unit64 / 2)

/-- Settles O55: the model's steps are the roundings, and its division by the unit is the floor. -/
theorem thresholdIsTheSpecsRoundedSteps : Obligations.ThresholdIsTheSpecsRoundedSteps := by
  intro min max n i hc _ hi
  have hfloor := thrFloor_eq min.toNat max.toNat n.toNat i
  rw [← Nat.floor_div_eq_div (K := ℝ)] at hfloor
  exact ⟨_, _, _, _, _, round64_ratio_isNearestEven max.toNat hc.min_pos, round64_ratio_isNearestEven i hc.bars_pos,
    pow64_isNearestEven hc.ratio_representable (hc.exponent_le hi), round64_mul_isNearestEven _ _,
    round64_add_half_isNearestEven _, rfl, hfloor, congrArg (· % 2 ^ 16) hfloor⟩

end Sys2Proof.Machine
end

section
/-! GEN_THR and RUN of an idle block, through their acceptance (R150, R171) and their completion (R109, R151, R154); what BuildTable leaves, by
the spec's loop. -/

namespace Sys2Proof.Machine

/-! ### Acceptance -/

theorem thresholdChecks_of_legal {c : InFlight} (h : LegalConfig c.min c.max c.n) :
    ∀ d ∈ thresholdChecks c, d.2 = false := by
  obtain ⟨hmin, hmax, hpos, hlt, hn, hn'⟩ := h
  simp only [thresholdChecks, List.forall_mem_cons, decide_eq_false_iff_not, not_or]
  refine ⟨⟨?_, ?_⟩, ?_, ?_, ⟨?_, ?_⟩, List.forall_mem_nil _⟩ <;> bv_omega

theorem exec_genThr_accepted {s : State} (hi : s.inflight = none)
    (hc : LegalConfig s.minFreq s.maxFreq s.numBars) :
    exec .genThr s = .next { s with inflight := flightOf s .genThr } :=
  congrArg _ (State.acceptLong_of_checks hi (thresholdChecks_of_legal hc) _)

theorem exec_run_accepted {s : State} (hi : s.inflight = none) (hc : LegalConfig s.minFreq s.maxFreq s.numBars)
    (hscheme : s.scheme.toNat ≤ 1) : exec .run s = .next { s with inflight := flightOf s .run } :=
  congrArg _ (State.acceptLong_of_checks hi
    (List.forall_mem_append.mpr ⟨thresholdChecks_of_legal hc, schemeChecks_of_le hscheme⟩) _)

/-! ### GEN_THR (R109) -/

/-- The entries WriteThresholds leaves: the thresholds from 1 to the bar count, 0 elsewhere (R108). -/
theorem State.thrAt_writeThresholds_of_le (s : State) (a b : Word) {n : Word} (hn : n.toNat ≤ 256) (i : Nat) :
    (s.writeThresholds a b n).thrAt i =
      if 1 ≤ i ∧ i ≤ n.toNat then BitVec.ofNat 16 (Machine.thr a.toNat b.toNat n.toNat i) else 0#16 := by
  rw [thrAt_writeThresholds_eq, thrEntry]
  by_cases hi : 1 ≤ i ∧ i ≤ n.toNat
  · rw [if_pos (by omega), if_neg (by omega), if_pos hi.2, if_pos hi]
  · rw [if_neg hi]
    grind

/-- Settles O21: the completion writes the thresholds of the configuration in flight. -/
theorem genThrWritesTheThresholds : Obligations.GenThrWritesTheThresholds := by
  intro s rest hi hc hp
  refine ⟨_, _, exec_genThr_accepted hi hc, rfl, step_completes hp _, ?_, ?_, ?_⟩
  · exact s.thr_length_writeThresholds s.minFreq s.maxFreq s.numBars
  · exact s.thrAt_writeThresholds_of_le s.minFreq s.maxFreq hc.bars_le
  · show { s.writeThresholds s.minFreq s.maxFreq s.numBars with inflight := none, pending := rest } = _
    rw [← hi]
    rfl

/-! ### What BuildTable leaves (R125 to R127) -/

/-- The finding of an index is the spec's resolution of its frequency, if it has one. -/
theorem State.bandEntry_eq_specResolve {s : State} (h : s.thrN.toNat < s.thr.length) (sch : Scheme) (r : Range)
    (idx : Nat) : s.bandEntry sch r idx =
      (freqOf sch r idx).map fun f => specResolve s.thr s.thrN.toNat f (decide (r = .high)) := by
  rw [bandEntry, preset_clamp]
  cases freqOf sch r idx with
  | none => rfl
  | some f => exact congrArg some (resolve_eq_specResolve h f _)

theorem State.entryByte_bandEntry {s : State} (h : s.thrN.toNat < s.thr.length) (sch : Scheme) (r : Range)
    (idx : Nat) : entryByte (s.bandEntry sch r idx) = specEntry s.thr s.thrN.toNat sch r idx := by
  rw [bandEntry_eq_specResolve h, specEntry]
  cases freqOf sch r idx <;> rfl

theorem State.at_buildTable_eq_specEntry {s : State} (h : s.thrN.toNat < s.thr.length) (sch : Scheme) (r : Range)
    {k : Nat} (hk : k < 256) :
    ((s.buildTable sch r).work r).at k = specEntry s.thr s.thrN.toNat sch r k := by
  rw [at_buildTable_self, if_pos hk, entryByte_bandEntry h]

/-- The kinds a build notes are those of the spec's resolutions. -/
theorem State.mem_entryKinds_iff {s : State} (h : s.thrN.toNat < s.thr.length) (sch : Scheme) (r : Range) (k : Kind) :
    k ∈ entryKinds (s.bandEntries sch r) ↔ someIndexEnds s.thr s.thrN.toNat sch r k := by
  simp only [entryKinds, bandEntries, Config.bandEntries, List.mem_filterMap, List.mem_map, List.mem_range,
    exists_exists_and_eq_and, bandEntry_eq_specResolve h, Option.map_eq_some_iff, someIndexEnds, exists_and_left]

/-! ### RUN's three builds (R154) -/

/-- A build changes nothing that another build reads. -/
theorem State.bandEntries_buildTable (s : State) (sch sch' : Scheme) (r r' : Range) :
    (s.buildTable sch' r').bandEntries sch r = s.bandEntries sch r :=
  bandEntries_congr rfl rfl sch r

/-- Each table is built as if it were the only one. -/
theorem State.work_buildAll (s : State) (sch : Scheme) (r : Range) :
    (s.buildAll sch).work r = (s.buildTable sch r).work r := by
  cases r <;> simp [buildAll, work, bandEntries_buildTable]

theorem Range.exists_iff {p : Range → Prop} : (∃ r, p r) ↔ p .low ∨ p .mid ∨ p .high := by
  constructor
  · rintro ⟨r, h⟩
    cases r
    · exact .inl h
    · exact .inr (.inl h)
    · exact .inr (.inr h)
  · rintro (h | h | h) <;> exact ⟨_, h⟩

theorem State.unreach_buildAll_iff {s : State} (h : s.thrN.toNat < s.thr.length) (sch : Scheme) :
    (s.buildAll sch).unreach = true ↔
      s.unreach = true ∨ ∃ r, someIndexEnds s.thr s.thrN.toNat sch r .fallback := by
  simp [buildAll, bandEntries_buildTable, Range.exists_iff, mem_entryKinds_iff h, or_assoc]

theorem State.clampHit_buildAll_iff {s : State} (h : s.thrN.toNat < s.thr.length) (sch : Scheme) :
    (s.buildAll sch).clampHit = true ↔
      s.clampHit = true ∨ ∃ r, someIndexEnds s.thr s.thrN.toNat sch r .clamp := by
  simp [buildAll, bandEntries_buildTable, Range.exists_iff, mem_entryKinds_iff h, or_assoc]

theorem State.at_buildAll_eq_specEntry {s : State} (h : s.thrN.toNat < s.thr.length) (sch : Scheme) (r : Range)
    {k : Nat} (hk : k < 256) :
    ((s.buildAll sch).work r).at k = specEntry s.thr s.thrN.toNat sch r k := by
  rw [work_buildAll, at_buildTable_eq_specEntry h sch r hk]

theorem State.work_buildAll_built (s : State) (sch : Scheme) (r : Range) :
    ((s.buildAll sch).work r).valid = true ∧ ((s.buildAll sch).work r).scheme = sch := by
  rw [work_buildAll, work_buildTable_self]
  exact ⟨rfl, rfl⟩

theorem State.work_length_buildAll (s : State) (sch : Scheme) (r : Range) :
    ((s.buildAll sch).work r).data.length = 256 := by
  rw [work_buildAll, work_buildTable_self, List.length_map]
  exact s.bandEntries_length sch r

/-! ### RUN (R154) -/

/-- The scheme bit that STATUS shows once the blob is there. -/
theorem State.getLsbD_status_outScheme {s : State} (hv : s.outValid = true) :
    s.status.getLsbD 12 = true ↔ s.outScheme = .variantB := by
  rw [s.getLsbD_status 12 (by decide)]
  simp [hv, schemeBit_eq_true_iff]

theorem schemeOfWord_eq_variantB_iff {w : Word} (h : w.toNat ≤ 1) : schemeOfWord w = .variantB ↔ w.toNat = 1 := by
  rw [schemeOfWord_eq]
  split_ifs <;> simp <;> omega

/-- The engine's turn next, the RUN just accepted completes: the thresholds, the tables built over them, the blob of those tables, and the
frame. -/
theorem step_run_completes {s : State} {rest : List Event} (hp : s.pending = .engine :: rest) {w b : State}
    (hw : w = s.writeThresholds s.minFreq s.maxFreq s.numBars) (hb : b = w.buildAll (schemeOfWord s.scheme)) :
    ∃ u, step { s with inflight := flightOf s .run } = .next u ∧ u.thr = w.thr ∧ (∀ r, u.work r = b.work r) ∧
      u.out = (b.serialize (schemeOfWord s.scheme)).out ∧ u.unreach = b.unreach ∧ u.clampHit = b.clampHit ∧
      u = { s with
        thr := u.thr
        thrN := s.numBars
        thrValid := true
        low := u.low
        mid := u.mid
        high := u.high
        out := u.out
        outValid := true
        outScheme := schemeOfWord s.scheme
        unreach := u.unreach
        clampHit := u.clampHit
        inflight := none
        pending := rest } := by
  subst hb hw
  refine ⟨_, step_completes hp (s.snapshot .run .low 0#16), rfl, fun r => by cases r <;> rfl, rfl, rfl, rfl, ?_⟩
  simp [completeRecord, completeRun, State.snapshot, State.buildAll]

/-- Settles O26: the builds read the thresholds just written, and the blob is the three tables just built. -/
theorem runWritesThresholdsTablesAndBlob : Obligations.RunWritesThresholdsTablesAndBlob := by
  intro s rest hi hc hscheme hp
  have hthr := s.thrAt_writeThresholds_of_le s.minFreq s.maxFreq hc.bars_le
  have hlen := s.thr_length_writeThresholds s.minFreq s.maxFreq s.numBars
  have hthrN := s.writeThresholds_thrN s.minFreq s.maxFreq s.numBars
  have hunreach_thr := s.writeThresholds_unreach s.minFreq s.maxFreq s.numBars
  have hclamp_thr := s.writeThresholds_clampHit s.minFreq s.maxFreq s.numBars
  obtain ⟨u, hstep, huthr, hwork, hout, hunreach, hclamp, hframe⟩ := step_run_completes hp rfl rfl
  generalize s.writeThresholds s.minFreq s.maxFreq s.numBars = w at *
  have hn : w.thrN.toNat < w.thr.length := by
    rw [hlen, hthrN]
    exact Nat.lt_succ_of_le hc.bars_le
  have hdata := w.work_length_buildAll (schemeOfWord s.scheme)
  refine ⟨_, u, exec_run_accepted hi hc hscheme, rfl, hstep, ?len, ?thr, fun r k hk => ⟨?table, ?blob⟩, fun r => ?built,
    ?unreach, ?clampHit, ?schemeBit, fun a ha => ?outside, ?frame⟩
  case len => rw [huthr, hlen]; rfl
  case thr => simpa only [State.thrAt, huthr] using hthr
  case table => rw [hwork, huthr, ← hthrN, State.at_buildAll_eq_specEntry hn _ r hk]
  case blob => rw [hwork, State.outAt, hout]; exact State.outAt_serialize hdata _ r hk
  case built =>
    obtain ⟨hvalid, hsch⟩ := w.work_buildAll_built (schemeOfWord s.scheme) r
    rw [hwork]
    exact ⟨hvalid, hsch, hdata r⟩
  case unreach => rw [hunreach, huthr, ← hthrN, State.unreach_buildAll_iff hn, hunreach_thr]
  case clampHit => rw [hclamp, huthr, ← hthrN, State.clampHit_buildAll_iff hn, hclamp_thr]
  case schemeBit =>
    have hvalid : u.outValid = true := by rw [hframe]
    have hsch : u.outScheme = schemeOfWord s.scheme := by rw [hframe]
    rw [State.getLsbD_status_outScheme hvalid, hsch, schemeOfWord_eq_variantB_iff hscheme]
  case outside => rw [hout]; exact State.read_serialize_outside hdata _ ha
  case frame => rw [hi]; exact hframe

end Sys2Proof.Machine
end

section
/-! The frame of a completion over the bus: which bytes the host can read come from which item of the state (R52 to R56). -/

namespace Sys2Proof.Machine

/-! ### What a byte of the bus reads (R52, R54, R56) -/

/-- Two states that agree on the configuration registers. -/
structure SameConfiguration (s t : State) : Prop where
  minFreq : t.minFreq = s.minFreq
  maxFreq : t.maxFreq = s.maxFreq
  numBars : t.numBars = s.numBars
  scheme : t.scheme = s.scheme

/-- A byte outside STATUS reads alike in two states with one configuration that agree on the item it belongs to, if it belongs to one. -/
theorem State.byteAt_congr {s t : State} (hc : SameConfiguration s t) {a : Nat} (hstatus : ¬ (4 ≤ a ∧ a < 8))
    (hresult : 0x18 ≤ a ∧ a < 0x1C → t.result = s.result) (hthrN : 0x1C ≤ a ∧ a < 0x20 → t.thrN = s.thrN)
    (hthr : 0x1000 ≤ a ∧ a < 0x1404 → t.thr = s.thr) (hout : 0x2000 ≤ a ∧ a < 0x2300 → t.out = s.out) :
    t.byteAt a = s.byteAt a := by
  have hword : t.wordAt (a - a % 4) = s.wordAt (a - a % 4) := by
    unfold wordAt addrStatus addrMinFreq addrMaxFreq addrNumBars addrScheme addrResult addrThrN thrBase thrEnd
    refine ite_congr rfl (fun ha => ?status) fun _ => ite_congr rfl (fun _ => hc.minFreq) fun _ =>
      ite_congr rfl (fun _ => hc.maxFreq) fun _ => ite_congr rfl (fun _ => hc.numBars) fun _ =>
      ite_congr rfl (fun _ => hc.scheme) fun _ => ite_congr rfl (fun ha => hresult ?result) fun _ =>
      ite_congr rfl (fun ha => hthrN ?thrN) fun _ => ite_congr rfl (fun ha => ?thr) fun _ => rfl
    case thr => rw [thrAt, thrAt, hthr (by omega)]
    all_goals omega
  unfold byteAt narrowBase outEnd
  exact ite_congr rfl (fun _ => by rw [hword]) fun hge => ite_congr rfl
    (fun hlt => by rw [hout ⟨Nat.le_of_not_lt hge, hlt⟩]) fun _ => rfl

/-! ### Completions -/

theorem sameConfiguration_engineTurn (s : State) : SameConfiguration s s.engineTurn := by
  obtain ⟨-, ht⟩ | ⟨c, -, ⟨-, ht⟩ | ⟨-, ht⟩ | ⟨-, ht⟩ | ⟨-, ht⟩ | ⟨-, ht⟩ | ⟨-, ht⟩⟩ := s.engineTurn_cases <;> rw [ht]
  all_goals constructor <;> simp [State.buildAll, completeResolve, completeQfreq]

/-- Only RESOLVE and QFREQ write RESULT. -/
theorem State.engineTurn_result {s : State} {c : InFlight} (hc : s.inflight = some c)
    (hop : ¬ (c.op = .resolve ∨ c.op = .qfreq)) : s.engineTurn.result = s.result := by
  rw [engineTurn_flight hc, completeRecord]
  cases h : c.op with
  | resolve => exact absurd (.inl h) hop
  | qfreq => exact absurd (.inr h) hop
  | genThr | build | commit => rfl
  | run => simp [completeRun, buildAll]

/-- Only GEN_THR and RUN write the thresholds and THR_N. -/
theorem State.engineTurn_thr {s : State} {c : InFlight} (hc : s.inflight = some c)
    (hop : ¬ (c.op = .genThr ∨ c.op = .run)) : s.engineTurn.thr = s.thr ∧ s.engineTurn.thrN = s.thrN := by
  rw [engineTurn_flight hc, completeRecord]
  cases h : c.op with
  | genThr => exact absurd (.inl h) hop
  | run => exact absurd (.inr h) hop
  | build | commit | resolve | qfreq => exact ⟨rfl, rfl⟩

/-- Only COMMIT and RUN write OUT. -/
theorem State.engineTurn_out_eq {s : State} {c : InFlight} (hc : s.inflight = some c)
    (hop : ¬ (c.op = .commit ∨ c.op = .run)) : s.engineTurn.out = s.out := by
  by_contra h
  obtain ⟨d, hd, hop'⟩ := engineTurn_out h
  cases hc.symm.trans hd
  exact hop hop'

/-- A completion changes no byte outside STATUS and the items its command writes. -/
theorem State.byteAt_engineTurn {s : State} {c : InFlight} (hc : s.inflight = some c) {a : Nat}
    (hstatus : ¬ (4 ≤ a ∧ a < 8)) (hresult : c.op = .resolve ∨ c.op = .qfreq → ¬ (0x18 ≤ a ∧ a < 0x1C))
    (hthr : c.op = .genThr ∨ c.op = .run → ¬ (0x1C ≤ a ∧ a < 0x20) ∧ ¬ (0x1000 ≤ a ∧ a < 0x1404))
    (hout : c.op = .commit ∨ c.op = .run → ¬ (0x2000 ≤ a ∧ a < 0x2300)) : s.engineTurn.byteAt a = s.byteAt a := by
  refine byteAt_congr (sameConfiguration_engineTurn s) hstatus (fun ha => ?_) (fun ha => ?_) (fun ha => ?_)
    fun ha => ?_
  · exact engineTurn_result hc fun hop => hresult hop ha
  · exact (engineTurn_thr hc fun hop => (hthr hop).1 ha).2
  · exact (engineTurn_thr hc fun hop => (hthr hop).2 ha).1
  · exact engineTurn_out_eq hc fun hop => hout hop ha

/-- Settles O28: a byte belongs to one item of the state, and each completion keeps the items it does not write. -/
theorem completionChangesNoByteItsCommandDoesNotWrite :
    Obligations.CompletionChangesNoByteItsCommandDoesNotWrite := by
  intro s c hc a hstatus
  have hbyte := State.byteAt_engineTurn hc hstatus
  refine ⟨fun hop => ?build, fun hop hresult => ?result, fun hop hthrN hthr => ?genThr, fun hop hout => ?commit,
    fun hop hthrN hthr hout => ?run⟩
  case build =>
    exact hbyte (fun h => by simp [hop] at h) (fun h => by simp [hop] at h) fun h => by simp [hop] at h
  case result => exact hbyte (fun _ => hresult) (fun h => by grind) fun h => by grind
  case genThr => exact hbyte (fun h => by simp [hop] at h) (fun _ => ⟨hthrN, hthr⟩) fun h => by simp [hop] at h
  case commit => exact hbyte (fun h => by simp [hop] at h) (fun h => by simp [hop] at h) fun _ => hout
  case run => exact hbyte (fun h => by simp [hop] at h) (fun _ => ⟨hthrN, hthr⟩) fun _ => hout

end Sys2Proof.Machine
end

section
/-! Bar resolution over a sorted table (R123), and BUILD of one range: its working table (R126 to R129), the independence of the ranges (R128),
and the command through its acceptance and its completion (R129, R150, R151). -/

namespace Sys2Proof.Machine

/-! ### What the spec's loop answers (R122) -/

/-- Settles O45: the table has a boundary above each of the bars the loop looks at. -/
theorem resolutionIsTheSpecsLoop : Obligations.ResolutionIsTheSpecsLoop := by
  intro table n f clamp hlen hn
  exact resolve_eq_specResolve (by omega) f clamp

/-- The half-open interval of bar `b` holds the frequency `f` (R122). -/
abbrev BarHolds (table : List Half) (f b : Nat) : Prop :=
  (table.getD b 0#16).toNat ≤ f ∧ f < (table.getD (b + 1) 0#16).toNat

/-- Where some bar holds the frequency, the loop answers such a bar. -/
theorem specResolve_of_bar {table : List Half} {n f : Nat} (h : ∃ b < n, BarHolds table f b) (clamp : Bool) :
    ∃ b < n, BarHolds table f b ∧ specResolve table n f clamp = (b, .scan) := by
  rw [specResolve]
  split
  · next b hfind =>
    exact ⟨b, List.mem_range.mp (List.mem_of_find?_eq_some hfind), of_decide_eq_true (List.find?_some hfind :), rfl⟩
  · next hfind =>
    obtain ⟨b, hb, hholds⟩ := h
    exact absurd (decide_eq_true hholds) (List.find?_eq_none.mp hfind b (List.mem_range.mpr hb))

/-- Where no bar holds the frequency, the loop ends with the clamp or the fallback. -/
theorem specResolve_of_no_bar {table : List Half} {n f : Nat} (h : ∀ b < n, ¬ BarHolds table f b) (clamp : Bool) :
    specResolve table n f clamp =
      if clamp = true ∧ (table.getD n 0#16).toNat ≤ f then (n - 1, .clamp) else (0, .fallback) := by
  rw [specResolve]
  split
  · next b hfind =>
    exact absurd (of_decide_eq_true (List.find?_some hfind :)) (h b (List.mem_range.mp (List.mem_of_find?_eq_some hfind)))
  · rfl

/-! ### Sorted tables (R123) -/

section Sorted

variable {table : List Half} {n : Nat} (hsorted : ∀ i, i < n → table.getD i 0#16 ≤ table.getD (i + 1) 0#16)

include hsorted

theorem boundary_mono {i j : Nat} (hij : i ≤ j) (hj : j ≤ n) :
    (table.getD i 0#16).toNat ≤ (table.getD j 0#16).toNat := by
  induction j, hij using Nat.le_induction with
  | base => exact le_rfl
  | succ j _ ih => exact (ih (by omega)).trans (BitVec.le_def.mp (hsorted j (by omega)))

/-- The intervals do not overlap (R123 (a)). -/
theorem BarHolds.unique {f b c : Nat} (hb : BarHolds table f b) (hc : BarHolds table f c) (hbn : b < n) (hcn : c < n) :
    b = c := by
  obtain ⟨hb_lo, hb_hi⟩ := hb
  obtain ⟨hc_lo, hc_hi⟩ := hc
  rcases lt_trichotomy b c with hlt | heq | hgt
  · have := boundary_mono hsorted (show b + 1 ≤ c from hlt) hcn.le
    omega
  · exact heq
  · have := boundary_mono hsorted (show c + 1 ≤ b from hgt) hbn.le
    omega

/-- No interval reaches above the top threshold (R123 (c)). -/
theorem not_barHolds_of_top_le {f b : Nat} (htop : (table.getD n 0#16).toNat ≤ f) (hb : b < n) :
    ¬ BarHolds table f b := fun ⟨_, hhi⟩ => by
  have := boundary_mono hsorted (show b + 1 ≤ n from hb) le_rfl
  omega

end Sorted

/-- The intervals cover everything from the first threshold to the top one (R123 (a)): the bar below the first boundary above the
frequency holds it. -/
theorem exists_barHolds {table : List Half} {n f : Nat} (hfloor : table.getD 0 0#16 = 0#16)
    (htop : f < (table.getD n 0#16).toNat) : ∃ b < n, BarHolds table f b := by
  induction n with
  | zero => rw [hfloor] at htop; exact absurd htop (Nat.not_lt_zero f)
  | succ n ih =>
    by_cases hf : f < (table.getD n 0#16).toNat
    · obtain ⟨b, hb, hholds⟩ := ih hf
      exact ⟨b, hb.trans n.lt_succ_self, hholds⟩
    · exact ⟨n, n.lt_succ_self, Nat.le_of_not_lt hf, htop⟩

/-- Settles O46: below the top threshold exactly one bar holds the frequency, from it on none does. -/
theorem resolutionOverASortedTable : Obligations.ResolutionOverASortedTable := by
  intro table n f clamp hlen hn hn' hfloor hsorted
  refine ⟨resolve_lt hn table f clamp, fun htop => ?below, fun htop => ?above⟩ <;>
    rw [resolve_eq_specResolve (by omega)]
  case below =>
    obtain ⟨b, hb, hholds, hres⟩ := specResolve_of_bar (exists_barHolds hfloor htop) clamp
    rw [hres]
    exact ⟨rfl, hholds.1, hholds.2, fun c hc hlo hhi => BarHolds.unique hsorted ⟨hlo, hhi⟩ hholds hc hb⟩
  case above =>
    rw [specResolve_of_no_bar fun b => not_barHolds_of_top_le hsorted htop]
    simp only [htop, and_true]

/-! ### Masked entries (R126) -/

theorem State.isSome_bandEntry (s : State) (sch : Scheme) (r : Range) (idx : Nat) :
    (s.bandEntry sch r idx).isSome = decide (idx < (preset sch r).count) := by
  rw [bandEntry, freqOf]
  split_ifs with h
  · simp [Nat.not_lt.mpr h]
  · simp [Nat.lt_of_not_le h]

theorem countP_lt_range {m n : Nat} (h : m ≤ n) : (List.range n).countP (fun i => decide (i < m)) = m := by
  obtain ⟨k, rfl⟩ := Nat.exists_eq_add_of_le h
  have hbelow : (List.range m).countP (fun i => decide (i < m)) = m := by
    rw [List.countP_eq_length.mpr fun i hi => by simpa using hi, List.length_range]
  have habove : ((List.range k).map (m + ·)).countP (fun i => decide (i < m)) = 0 :=
    List.countP_eq_zero.mpr (by simp)
  rw [List.range_add, List.countP_append, hbelow, habove, Nat.add_zero]

/-- A build makes one resolution for each index that has a frequency. -/
theorem State.length_entryKinds (s : State) (sch : Scheme) (r : Range) :
    (entryKinds (s.bandEntries sch r)).length = (preset sch r).count := by
  rw [entryKinds, List.length_filterMap_eq_countP, bandEntries, List.countP_map]
  simp only [Function.comp_def, Option.isSome_map, isSome_bandEntry]
  exact countP_lt_range (preset_count_le sch r)

/-- Settles O47: the masked indices have no frequency, and the other 192 have one each. -/
theorem maskedEntriesAreZeroAndUnresolved : Obligations.MaskedEntriesAreZeroAndUnresolved := by
  refine fun s => ⟨fun idx hidx hidx' => ?_, s.length_entryKinds .variantB .mid⟩
  have hmasked := freqOf_variantB_mid hidx
  refine ⟨hmasked, ?_⟩
  rw [State.at_buildTable_self, if_pos hidx', State.bandEntry, hmasked]
  rfl

/-! ### The ranges are independent (R128) -/

theorem State.setWork_comm (s : State) {r r' : Range} (h : r ≠ r') (t t' : WorkTable) :
    (s.setWork r t).setWork r' t' = (s.setWork r' t').setWork r t := by
  rw [setWork, setWork, setWork, setWork]
  congr 1 <;> (apply ite_ite_comm; rintro rfl; exact h)

/-- The flags are only ever set, so the order of setting them is no matter. -/
theorem State.noteKinds_comm (s : State) (ks ks' : List Kind) :
    (s.noteKinds ks).noteKinds ks' = (s.noteKinds ks').noteKinds ks := by
  simp [noteKinds, Bool.or_right_comm]

theorem State.setWork_noteKinds (s : State) (ks : List Kind) (r : Range) (t : WorkTable) :
    (s.noteKinds ks).setWork r t = (s.setWork r t).noteKinds ks := rfl

/-- A build after another one stores and notes what it finds in the state before both. -/
theorem State.buildTable_buildTable (s : State) (sch sch' : Scheme) (r r' : Range) :
    (s.buildTable sch r).buildTable sch' r' =
      (((s.setWork r ⟨(s.bandEntries sch r).map entryByte, true, sch⟩).setWork r'
        ⟨(s.bandEntries sch' r').map entryByte, true, sch'⟩).noteKinds
        (entryKinds (s.bandEntries sch r))).noteKinds (entryKinds (s.bandEntries sch' r')) := by
  rw [buildTable, bandEntries_buildTable, buildTable, setWork_noteKinds]

/-- Settles O48: tables and flags are each written in either order, from findings that neither build changes. -/
theorem rangesAreIndependent : Obligations.RangesAreIndependent := by
  refine fun s sch sch' r r' hr => ⟨?_, fun s' hthr hthrN => ?_⟩
  · rw [State.buildTable_buildTable, State.buildTable_buildTable, State.setWork_comm s hr, State.noteKinds_comm]
  · rw [State.work_buildTable_self, State.work_buildTable_self, State.bandEntries_congr hthr hthrN]

/-! ### BUILD (R129) -/

theorem exec_build_accepted {s : State} (hi : s.inflight = none) (hscheme : s.scheme.toNat ≤ 1)
    (hv : s.thrValid = true) (r : Range) :
    exec (.build r) s = .next { s with inflight := flightOf s (.build r) } :=
  congrArg _ (State.acceptLong_of_checks hi
    (List.forall_mem_append.mpr ⟨schemeChecks_of_le hscheme, thresholdsPresentChecks_of_valid hv⟩) _)

theorem State.work_length_buildTable_self (s : State) (sch : Scheme) (r : Range) :
    ((s.buildTable sch r).work r).data.length = 256 := by
  rw [work_buildTable_self, List.length_map]
  exact s.bandEntries_length sch r

theorem State.unreach_buildTable_iff {s : State} (h : s.thrN.toNat < s.thr.length) (sch : Scheme) (r : Range) :
    (s.buildTable sch r).unreach = true ↔ s.unreach = true ∨ someIndexEnds s.thr s.thrN.toNat sch r .fallback := by
  simp [mem_entryKinds_iff h]

theorem State.clampHit_buildTable_iff {s : State} (h : s.thrN.toNat < s.thr.length) (sch : Scheme) (r : Range) :
    (s.buildTable sch r).clampHit = true ↔ s.clampHit = true ∨ someIndexEnds s.thr s.thrN.toNat sch r .clamp := by
  simp [mem_entryKinds_iff h]

/-- The engine's turn next, the BUILD just accepted completes: the working tables and flags are those BuildTable leaves, and the frame. -/
theorem step_build_completes {s : State} {rest : List Event} (hp : s.pending = .engine :: rest) (r : Range) :
    ∃ u, step { s with inflight := flightOf s (.build r) } = .next u ∧
      (∀ r', u.work r' = (s.buildTable (schemeOfWord s.scheme) r).work r') ∧
      u.unreach = (s.buildTable (schemeOfWord s.scheme) r).unreach ∧
      u.clampHit = (s.buildTable (schemeOfWord s.scheme) r).clampHit ∧
      u = { s with
        low := u.low
        mid := u.mid
        high := u.high
        unreach := u.unreach
        clampHit := u.clampHit
        inflight := none
        pending := rest } :=
  ⟨_, step_completes hp (s.snapshot .build r 0#16), fun r' => by cases r' <;> rfl, rfl, rfl, rfl⟩

/-- Settles O22: the completion is BuildTable, and a good state's THR_N lies inside its table, so the findings are the spec's. -/
theorem buildFillsTheRangesWorkingTable : Obligations.BuildFillsTheRangesWorkingTable := by
  intro s r rest hi hscheme hv hinv hp
  obtain ⟨-, hn⟩ := hinv.thrN_legal hv
  have hlen : s.thrN.toNat < s.thr.length := by rw [hinv.thr_length]; omega
  obtain ⟨u, hstep, hwork, hunreach, hclamp, hframe⟩ := step_build_completes hp r
  refine ⟨_, u, exec_build_accepted hi hscheme hv r, rfl, hstep, fun idx hidx => ?entry, ?length, ?valid, ?scheme,
    fun r' hr => ?others, ?unreach, ?clampHit, ?frame⟩
  case entry => rw [hwork, State.at_buildTable_eq_specEntry hlen _ r hidx]
  case length => rw [hwork, State.work_length_buildTable_self]
  case valid => rw [hwork, State.work_buildTable_self]
  case scheme => rw [hwork, State.work_buildTable_self]
  case others => rw [hwork, State.work_buildTable_other s _ hr]
  case unreach => rw [hunreach, State.unreach_buildTable_iff hlen]
  case clampHit => rw [hclamp, State.clampHit_buildTable_iff hlen]
  case frame => rw [hi]; exact hframe

end Sys2Proof.Machine
end

section
/-! Every step answers a next state and takes one input (R62, R174); a completion ends idle and writes neither ERR nor the configuration (R151,
R152); so the inputs run out, and what is still in flight completes (R200). -/

namespace Sys2Proof.Machine

/-! ### Completions -/

/-- The engine's turn leaves nothing in flight, and writes neither ERR nor the inputs. -/
theorem State.engineTurn_frame (s : State) :
    s.engineTurn.err = s.err ∧ s.engineTurn.inflight = none ∧ s.engineTurn.pending = s.pending := by
  obtain ⟨hi, ht⟩ | ⟨c, -, ⟨-, ht⟩ | ⟨-, ht⟩ | ⟨-, ht⟩ | ⟨-, ht⟩ | ⟨-, ht⟩ | ⟨-, ht⟩⟩ := s.engineTurn_cases <;> rw [ht]
  · exact ⟨rfl, hi, rfl⟩
  all_goals simp [buildAll, completeResolve, completeQfreq]

/-- Settles O10: the step is the engine's turn, which is total and writes neither ERR nor a configuration register. -/
theorem completionNeverFailsNorWritesErr : Obligations.CompletionNeverFailsNorWritesErr := by
  intro s c rest _ hp
  have hcfg := sameConfiguration_engineTurn { s with pending := rest }
  obtain ⟨herr, hidle, hpending⟩ := State.engineTurn_frame { s with pending := rest }
  exact ⟨_, step_engine hp, herr, hidle, hpending, hcfg.minFreq, hcfg.maxFreq, hcfg.numBars, hcfg.scheme⟩

/-! ### Steps -/

theorem exec_next (i : Instr) (s : State) : ∃ t, exec i s = .next t ∧ t.pending = s.pending := by
  obtain ⟨op, r, arg, cs, h⟩ | ⟨-, h⟩ | ⟨-, h⟩ | ⟨-, -, h⟩ | ⟨-, -, h⟩ := exec_cases i s
  · exact ⟨_, h, s.acceptLong_pending _ cs⟩
  all_goals exact ⟨_, h, rfl⟩

theorem State.transact_next (s : State) (tr : Transaction) : ∃ t, s.transact tr = .next t ∧ t.pending = s.pending := by
  obtain ⟨-, h⟩ | ⟨-, a, w, -, h⟩ | ⟨-, a, w, v, e, -, -, -, h⟩ | ⟨-, a, w, v, i, -, -, -, h⟩ | ⟨-, a, w, v, -, -, h⟩ :=
    s.transact_cases tr
  · exact ⟨_, h, rfl⟩
  · exact ⟨_, h, rfl⟩
  · exact ⟨_, h, rfl⟩
  · obtain ⟨t, ht, hp⟩ := exec_next i s
    rw [h, ht]
    exact ⟨_, mapNext_next _ t, hp⟩
  · exact ⟨_, h, s.writeRegister_pending _ v⟩

/-- A step never stops, and takes the first of the inputs, if there is one. -/
theorem step_next (s : State) : ∃ t, step s = .next t ∧ t.pending = s.pending.tail := by
  obtain ⟨hp, h⟩ | ⟨rest, hp, h⟩ | ⟨rest, hp, h⟩ | ⟨tr, rest, hp, h⟩ := step_cases s <;> rw [hp]
  · obtain ⟨-, -, hpending⟩ := s.engineTurn_frame
    exact ⟨_, h, hpending.trans hp⟩
  · obtain ⟨-, -, hpending⟩ := State.engineTurn_frame { s with pending := rest }
    exact ⟨_, h, hpending⟩
  · exact ⟨_, h, rfl⟩
  · rw [h]
    exact State.transact_next _ tr

/-- As many steps as there are inputs take them all. -/
theorem run_takes_inputs {n : Nat} {s : State} (hn : s.pending.length = n) :
    ∃ t, Host.Core.run Sys2Proof.core n s = .next t ∧ t.pending = [] := by
  induction n generalizing s with
  | zero => exact ⟨s, run_zero s, List.eq_nil_of_length_eq_zero hn⟩
  | succ n ih =>
    obtain ⟨t, hstep, hp⟩ := step_next s
    obtain ⟨u, hrun, hu⟩ := ih (s := t) (by rw [hp, List.length_tail, hn, Nat.add_sub_cancel])
    exact ⟨u, (run_succ hstep n).trans hrun, hu⟩

/-- Settles O9: with the inputs taken, one more step is the engine's turn, which leaves nothing in flight. -/
theorem blockBecomesQuiescentAfterItsInputs : Obligations.BlockBecomesQuiescentAfterItsInputs := by
  intro s
  obtain ⟨t, hrun, hp⟩ := run_takes_inputs (s := s) rfl
  obtain ⟨-, hidle, hpending⟩ := t.engineTurn_frame
  exact ⟨t.engineTurn, (run_add hrun 1).trans (run_succ (step_none hp) 0), hpending.trans hp, hidle⟩

end Sys2Proof.Machine
end

section
/-! The immediate commands NOP, CLRERR and SRESET (R156 to R158): their effects, what else can clear a sticky field, and the frame of a CMD write over
the bus (R150, R172). -/

namespace Sys2Proof.Machine

/-! ### NOP (R156) -/

/-- A command has one word. -/
theorem decode_ok_iff {w : Word} {i : Instr} : decode w = .ok i ↔ w = encode i :=
  ⟨fun h => (encodeOfDecodedWordIsTheWord w i h).symm, fun h => h ▸ decodeOfEncodeIsTheCommand i⟩

theorem encode_nop : encode .nop = 0#32 := rfl

/-- Settles O18: the word of NOP is 0, and no other word decodes to it. -/
theorem nopHasNoEffect : Obligations.NopHasNoEffect :=
  ⟨fun _ => rfl, fun _ => by rw [decode_ok_iff, encode_nop]⟩

/-! ### SRESET (R158) -/

theorem exec_sreset_idle {s : State} (h : s.inflight = none) : exec .sreset s = .next s.resetEvent := by
  rw [exec, execSreset, h]
  rfl

theorem exec_sreset_busy {s : State} (h : s.inflight ≠ none) : exec .sreset s = .next (s.raise .cmdBusy) := by
  rw [exec, execSreset, if_pos (Option.isSome_iff_ne_none.mpr h)]

theorem State.status_reset : State.reset.status = 0#32 := by decide

/-- STATUS reads 0 after a reset (R190): it reads neither the inputs nor the last answer. -/
theorem State.status_resetEvent (s : State) : s.resetEvent.status = 0#32 := status_reset

/-- Settles O20: the two arms of SRESET. -/
theorem sresetResetsWhenIdleAndIsRefusedWhenBusy : Obligations.SresetResetsWhenIdleAndIsRefusedWhenBusy :=
  ⟨fun s h => ⟨_, exec_sreset_idle h, rfl, s.status_resetEvent⟩, fun _ h => exec_sreset_busy h⟩

/-! ### The sticky fields (R125, R157, R172) -/

/-- What is set in the sticky fields of `s` is still set in `t`. -/
structure KeepsSticky (s t : State) : Prop where
  err : s.err ≠ .noError → t.err = s.err
  unreach : s.unreach = true → t.unreach = true
  clampHit : s.clampHit = true → t.clampHit = true

/-- The three ways to clear a sticky field, against `KeepsSticky`. -/
theorem KeepsSticky.not_cleared {s t : State} (h : KeepsSticky s t) :
    ¬ ((s.err ≠ .noError ∧ t.err ≠ s.err) ∨ (s.unreach = true ∧ t.unreach = false) ∨
      (s.clampHit = true ∧ t.clampHit = false)) := by
  rintro (⟨hset, hne⟩ | ⟨hset, hclear⟩ | ⟨hset, hclear⟩)
  · exact hne (h.err hset)
  · exact Bool.false_ne_true (hclear.symm.trans (h.unreach hset))
  · exact Bool.false_ne_true (hclear.symm.trans (h.clampHit hset))

theorem KeepsSticky.refl (s : State) : KeepsSticky s s := ⟨fun _ => rfl, id, id⟩

theorem KeepsSticky.of_pending {s t : State} {es : List Event} (h : KeepsSticky { s with pending := es } t) :
    KeepsSticky s t := ⟨h.err, h.unreach, h.clampHit⟩

theorem KeepsSticky.respond {s t : State} (h : KeepsSticky s t) (r : Response) : KeepsSticky s (t.respond r) :=
  ⟨h.err, h.unreach, h.clampHit⟩

/-- An error that is recorded already is kept (R172). -/
theorem keepsSticky_raise (s : State) (e : ErrCode) : KeepsSticky s (s.raise e) where
  err h := if_neg h
  unreach := id
  clampHit := id

theorem keepsSticky_acceptLong (s : State) (rec : InFlight) (cs : List (ErrCode × Bool)) :
    KeepsSticky s (s.acceptLong rec cs) := by
  obtain ⟨-, h⟩ | ⟨-, e, -, h⟩ | ⟨-, -, h⟩ := s.acceptLong_cases rec cs <;> rw [h]
  · exact keepsSticky_raise s _
  · exact keepsSticky_raise s e
  · exact ⟨fun _ => rfl, id, id⟩

theorem keepsSticky_writeRegister (s : State) (a : Nat) (v : Word) : KeepsSticky s (s.writeRegister a v) := by
  constructor <;> simp

/-- A completion sets flags and never clears one (R125). -/
theorem keepsSticky_engineTurn (s : State) : KeepsSticky s s.engineTurn := by
  obtain ⟨-, ht⟩ | ⟨c, -, ⟨-, ht⟩ | ⟨-, ht⟩ | ⟨-, ht⟩ | ⟨-, ht⟩ | ⟨-, ht⟩ | ⟨-, ht⟩⟩ := s.engineTurn_cases <;> rw [ht]
  · exact KeepsSticky.refl s
  all_goals constructor <;> simp +contextual [State.buildAll, completeResolve, completeQfreq]

theorem exec_keepsSticky {i : Instr} {s t : State} (h : exec i s = .next t) (hclr : i ≠ .clrerr) (hreset : i ≠ .sreset) :
    KeepsSticky s t := by
  obtain ⟨op, r, arg, cs, ht⟩ | ⟨-, ht⟩ | ⟨hi, -⟩ | ⟨hi, -⟩ | ⟨hi, -⟩ := exec_cases i s
  · cases h.symm.trans ht
    exact keepsSticky_acceptLong s _ cs
  · cases h.symm.trans ht
    exact KeepsSticky.refl s
  · exact absurd hi hclr
  · exact absurd hi hreset
  · exact absurd hi hreset

/-- A transaction is the write of CLRERR or of SRESET to CMD, or it keeps what is set. -/
theorem transact_keepsSticky {s t : State} {tr : Transaction} (h : s.transact tr = .next t) :
    Event.bus tr = cmdWrite .clrerr ∨ Event.bus tr = cmdWrite .sreset ∨ KeepsSticky s t := by
  obtain ⟨-, ht⟩ | ⟨-, a, w, -, ht⟩ | ⟨-, a, w, v, e, -, -, -, ht⟩ | ⟨hl, a, w, v, i, rfl, ha, hd, ht⟩ |
    ⟨-, a, w, v, -, -, ht⟩ := s.transact_cases tr <;> rw [ht] at h
  · cases h; exact .inr (.inr ((keepsSticky_raise s _).respond _))
  · cases h; exact .inr (.inr ((KeepsSticky.refl s).respond _))
  · cases h; exact .inr (.inr ((keepsSticky_raise s _).respond _))
  · have hcmd : Event.bus (.write a w v) = cmdWrite i := by
      rw [Transaction.eq_cmd_of_legal hl ha, decode_ok_iff.mp hd]; rfl
    by_cases hclr : i = .clrerr
    · exact .inl (hclr ▸ hcmd)
    by_cases hreset : i = .sreset
    · exact .inr (.inl (hreset ▸ hcmd))
    obtain ⟨u, hu, -⟩ := exec_next i s
    rw [hu] at h; cases h
    exact .inr (.inr ((exec_keepsSticky hu hclr hreset).respond _))
  · cases h; exact .inr (.inr ((keepsSticky_writeRegister s _ v).respond _))

/-- A step is the reset input, the write of CLRERR or of SRESET to CMD, or it keeps what is set. -/
theorem step_keepsSticky {s t : State} (h : step s = .next t) :
    (∃ rest, s.pending = .reset :: rest ∨ s.pending = cmdWrite .clrerr :: rest ∨ s.pending = cmdWrite .sreset :: rest) ∨
    KeepsSticky s t := by
  obtain ⟨-, ht⟩ | ⟨rest, -, ht⟩ | ⟨rest, hp, -⟩ | ⟨tr, rest, hp, ht⟩ := step_cases s
  · cases h.symm.trans ht; exact .inr (keepsSticky_engineTurn s)
  · cases h.symm.trans ht; exact .inr (keepsSticky_engineTurn _).of_pending
  · exact .inl ⟨rest, .inl hp⟩
  · obtain htr | htr | hk := transact_keepsSticky (ht.symm.trans h)
    · exact .inl ⟨rest, .inr (.inl (htr ▸ hp))⟩
    · exact .inl ⟨rest, .inr (.inr (htr ▸ hp))⟩
    · exact .inr hk.of_pending

/-- Settles O19: a step that is none of the three keeps what is set in the sticky fields. -/
theorem onlyClrerrAndResetClearTheStickyFields : Obligations.OnlyClrerrAndResetClearTheStickyFields :=
  ⟨fun _ => rfl, fun _ _ hstep hcleared => (step_keepsSticky hstep).resolve_right fun h => h.not_cleared hcleared⟩

/-! ### The frame of a CMD write over the bus (R150, R172) -/

/-- A step that keeps configuration, RESULT and tables changes no byte outside STATUS. -/
theorem State.byteAt_of_sameTables {s t : State} (hc : SameConfiguration s t) (hresult : t.result = s.result)
    (hst : SameTables s t) {a : Nat} (hstatus : ¬ (4 ≤ a ∧ a < 8)) : t.byteAt a = s.byteAt a :=
  byteAt_congr hc hstatus (fun _ => hresult) (fun _ => hst.thrN) (fun _ => hst.thr) fun _ => hst.out

theorem sameTables_acceptLong (s : State) (rec : InFlight) (cs : List (ErrCode × Bool)) :
    SameTables s (s.acceptLong rec cs) := by
  constructor <;> simp

/-- Settles O27: a command other than SRESET writes ERR, the flags and the record in flight at most, and STATUS alone reads from these. -/
theorem cmdWriteChangesNoByteButStatus : Obligations.CmdWriteChangesNoByteButStatus := by
  intro i s t hreset h a hstatus
  obtain ⟨op, r, arg, cs, ht⟩ | ⟨-, ht⟩ | ⟨-, ht⟩ | ⟨hi, -⟩ | ⟨hi, -⟩ := exec_cases i s
  · cases h.symm.trans ht
    exact State.byteAt_of_sameTables (by constructor <;> simp) (by simp) (sameTables_acceptLong s _ cs) hstatus
  · cases h.symm.trans ht
    rfl
  · cases h.symm.trans ht
    exact State.byteAt_of_sameTables (by constructor <;> rfl) s.clearSticky_result (sameTables_clearSticky s) hstatus
  · exact absurd hi hreset
  · exact absurd hi hreset

end Sys2Proof.Machine
end

section
/-! RUN depends on the configuration alone (R159): thresholds and blob are functions of the record in flight. -/

namespace Sys2Proof.Machine

/-- The blob of freshly built tables depends on the thresholds and THR_N alone. -/
theorem State.out_serialize_buildAll_congr {s t : State} (hthr : s.thr = t.thr) (hn : s.thrN = t.thrN) (sch : Scheme) :
    ((s.buildAll sch).serialize sch).out = ((t.buildAll sch).serialize sch).out := by
  have hwork : ∀ r, (s.buildAll sch).work r = (t.buildAll sch).work r := fun r => by
    rw [work_buildAll, work_buildAll, work_buildTable_self, work_buildTable_self, bandEntries_congr hthr hn]
  have hlow : (s.buildAll sch).low = (t.buildAll sch).low := hwork .low
  have hmid : (s.buildAll sch).mid = (t.buildAll sch).mid := hwork .mid
  have hhigh : (s.buildAll sch).high = (t.buildAll sch).high := hwork .high
  rw [serialize_out, serialize_out, hlow, hmid, hhigh]

/-! ### What a completion of RUN reads -/

theorem sameConfiguration_completeRun (c : InFlight) {s s' : State} (h : SameConfiguration s s') :
    SameConfiguration (completeRun c s) (completeRun c s') := by
  obtain ⟨hmin, hmax, hbars, hsch⟩ := h
  constructor <;> simpa [completeRun, State.buildAll]

theorem completeRun_thr_congr (c : InFlight) (s s' : State) : (completeRun c s).thr = (completeRun c s').thr := by
  simp [completeRun, State.buildAll]

theorem completeRun_out_congr (c : InFlight) (s s' : State) : (completeRun c s).out = (completeRun c s').out := by
  rw [completeRun, completeRun, State.finish_out, State.finish_out]
  apply State.out_serialize_buildAll_congr
  · rw [State.writeThresholds_thr, State.writeThresholds_thr]
  · rw [State.writeThresholds_thrN, State.writeThresholds_thrN]

/-- Above the registers, the host reads alike in two blocks of one configuration that complete the same RUN. -/
theorem byteAt_completeRun_congr (c : InFlight) {s s' : State} (h : SameConfiguration s s') {a : Nat}
    (ha : 0x1000 ≤ a) : (completeRun c s').byteAt a = (completeRun c s).byteAt a :=
  State.byteAt_congr (sameConfiguration_completeRun c h) (by omega) (by omega) (by omega)
    (fun _ => completeRun_thr_congr c s' s) fun _ => completeRun_out_congr c s' s

/-! ### RUN from its CMD write to its completion -/

/-- A command written to CMD, through the step. -/
theorem step_cmdWrite {s t : State} {i : Instr} {rest : List Event} (hp : s.pending = cmdWrite i :: rest)
    (h : exec i { s with pending := rest } = .next t) : step s = .next (t.respond (.okay none)) := by
  rw [stepRunsTheDecodedCommand s (encode i) i rest hp (decodeOfEncodeIsTheCommand i), h, mapNext_next]

/-- A RUN written to CMD of an idle block with a legal configuration, and its completion. -/
theorem run_cmdWrite_run {s : State} (hi : s.inflight = none) (hc : LegalConfig s.minFreq s.maxFreq s.numBars)
    (hscheme : s.scheme.toNat ≤ 1) {c : InFlight} (hrec : s.snapshot .run .low 0#16 = c) :
    Host.Core.run Sys2Proof.core 2 { s with pending := [cmdWrite .run, .engine] } =
      .next (completeRun c { s with inflight := some c, pending := [], response := some (.okay none) }) := by
  subst hrec
  have haccept := step_cmdWrite (s := { s with pending := [cmdWrite .run, .engine] }) rfl
    (exec_run_accepted (s := { s with pending := [.engine] }) hi hc hscheme)
  have hcomplete := step_engine (rest := [])
    (s := { s with inflight := flightOf s .run, pending := [.engine], response := some (.okay none) }) rfl
  rw [State.engineTurn_flight (c := s.snapshot .run .low 0#16) rfl] at hcomplete
  exact (run_succ haccept 1).trans (run_succ hcomplete 0)

/-- Settles O50: both blocks complete the same record. -/
theorem blobDependsOnTheConfigurationAlone : Obligations.BlobDependsOnTheConfigurationAlone := by
  intro s s' hi hi' hc hscheme hmin hmax hbars hsch
  have hrec : s'.snapshot .run .low 0#16 = s.snapshot .run .low 0#16 := by
    rw [State.snapshot, State.snapshot, hmin, hmax, hbars, hsch]
  have hrun' := run_cmdWrite_run hi' (by rwa [hmin, hmax, hbars]) (by rwa [hsch]) hrec
  refine ⟨_, _, run_cmdWrite_run hi hc hscheme rfl, hrun', rfl, rfl, rfl, fun a ha => ?_⟩
  refine byteAt_completeRun_congr _ ?_ ha
  exact ⟨hmin.symm, hmax.symm, hbars.symm, hsch.symm⟩

end Sys2Proof.Machine
end

section
/-! Errors and the order of checks (R170 to R177): what recording an error does, that no step stops, the order of a cycle's events, and the
acceptance checks as the first cause of R171's order. -/

namespace Sys2Proof.Machine

/-! ### Recording an error (R172) -/

theorem State.raise_err_of_clear {s : State} (h : s.err = .noError) (c : ErrCode) : (s.raise c).err = c := if_pos h

/-- Once an error is recorded, a further one leaves no trace. -/
theorem State.raise_of_recorded {s : State} (h : s.err ≠ .noError) (c : ErrCode) : s.raise c = s := by
  rw [raise, if_neg h]

theorem State.raise_err_ne_noError (s : State) {c : ErrCode} (hc : c ≠ .noError) : (s.raise c).err ≠ .noError := by
  by_cases h : s.err = .noError
  · rwa [raise_err_of_clear h]
  · rwa [raise_of_recorded h]

/-- Settles O14: after `raise` with a code other than 0 an error is recorded, so the next `raise` does nothing. -/
theorem firstErrorIsKept : Obligations.FirstErrorIsKept := fun s c d =>
  ⟨rfl, fun h => State.raise_err_of_clear h c, fun h => congrArg State.err (State.raise_of_recorded h c),
    fun hc => State.raise_of_recorded (s.raise_err_ne_noError hc) d⟩

/-! ### No step stops; a quiescent block (R174, R182, R201) -/

/-- Settles O7: every event has its next state. -/
theorem everyStepHasANextState : Obligations.EveryStepHasANextState := fun s =>
  (step_next s).imp fun _ => And.left

/-- Settles O8: without input the step is the engine's turn, which has nothing to complete. -/
theorem quiescentBlockStaysAsItIs : Obligations.QuiescentBlockStaysAsItIs := by
  intro s hp hi
  rw [step_none hp, State.engineTurn_idle hi]

/-! ### The events of one clock cycle (R177) -/

theorem Cycle.events_of_reset {c : Cycle} (h : c.reset = true) :
    c.events = .reset :: { c with reset := false }.events := by
  rw [events, h]
  rfl

theorem Cycle.reset_notMem_events {c : Cycle} (h : c.reset = false) : Event.reset ∉ c.events := by
  rw [events, h]
  rcases c.completion with _ | _ <;> rcases c.bus with _ | t
  · simp
  · simp
  · simp
  · by_cases hfirst : (c.busFirst && !t.isCmdWrite) = true <;> simp [hfirst]

/-- A write to CMD comes after the completion of its cycle, whatever `busFirst` says. -/
theorem Cycle.events_completion_cmdWrite {c : Cycle} {w : Word} (hreset : c.reset = false)
    (hcompletion : c.completion = true) (hbus : c.bus = some (.write 0x0000#16 .w4 w)) :
    c.events = [.engine, .bus (.write 0x0000#16 .w4 w)] := by
  have hcmd : (Transaction.write 0x0000#16 .w4 w).isCmdWrite = true := rfl
  simp [events, hreset, hcompletion, hbus, hcmd]

/-- Settles O39: the reset input stands first and once; the step before the CMD write is the engine's turn, which ends idle. -/
theorem cycleOrderPutsResetThenCompletionFirst : Obligations.CycleOrderPutsResetThenCompletionFirst := by
  refine ⟨fun c h => ⟨_, Cycle.events_of_reset h, Cycle.reset_notMem_events rfl⟩,
    fun c w hreset hcompletion hbus => ?_⟩
  have hevents := Cycle.events_completion_cmdWrite hreset hcompletion hbus
  refine ⟨hevents, fun s hp => ?_⟩
  obtain ⟨-, hidle, hpending⟩ := State.engineTurn_frame { s with pending := [.bus (.write 0x0000#16 .w4 w)] }
  exact ⟨_, step_engine (hp.trans hevents), hidle, hpending⟩

/-! ### The first cause in the order of R171 -/

open Classical in
/-- The first code of R171's order whose cause holds for command `i` in `s`. -/
noncomputable def State.firstCause (s : State) (i : Instr) : Option ErrCode :=
  checkOrder.find? fun e => decide (causeHolds s i e)

/-- `FirstError` names the first cause. -/
theorem firstError_iff {s : State} {i : Instr} {c : ErrCode} : FirstError s i c ↔ s.firstCause i = some c := by
  simp only [State.firstCause, List.find?_eq_some_iff_append, FirstError, decide_eq_true_eq, Bool.not_eq_true',
    decide_eq_false_iff_not, exists_and_left, exists_and_right, and_left_comm]

theorem State.firstCause_eq_none {s : State} {i : Instr} (h : ∀ e, ¬ causeHolds s i e) : s.firstCause i = none :=
  List.find?_eq_none.mpr fun e _ => by simpa using h e

/-! ### The checks a command makes find the first cause (R170, R171) -/

/-- A list of checks, each of which decides `p` for its code, finds the first of its codes for which `p` holds. -/
theorem firstFailing_eq_find? {cs : List (ErrCode × Bool)} {p : ErrCode → Bool} (h : ∀ d ∈ cs, d.2 = p d.1) :
    firstFailing cs = (cs.map Prod.fst).find? p := by
  induction cs with
  | nil => rfl
  | cons d cs ih =>
    obtain ⟨c, bad⟩ := d
    obtain ⟨hbad, hcs⟩ := List.forall_mem_cons.mp h
    obtain rfl : bad = p c := hbad
    rw [firstFailing, ih hcs, List.map_cons, List.find?_cons]
    cases p c <;> rfl

theorem firstFailing_append (cs ds : List (ErrCode × Bool)) :
    firstFailing (cs ++ ds) = (firstFailing cs).or (firstFailing ds) := by
  induction cs with
  | nil => rfl
  | cons d cs ih =>
    obtain ⟨c, bad⟩ := d
    cases bad
    · exact ih
    · rfl

/-- The checks a long command makes of its own, group by group as the rows of R170 name the commands. Of the snapshot they read the four
registers alone, which are the same for every command. -/
def State.checksOf (s : State) (i : Instr) : List (ErrCode × Bool) :=
  (if readsBounds i then thresholdChecks (s.snapshot .run .low 0#16) else []) ++
  (if readsScheme i then schemeChecks (s.snapshot .run .low 0#16) else []) ++
  (if needsThresholds i then thresholdsPresentChecks s else []) ++
  (if i = .commit then tablesCompleteChecks s else [])

/-- A long command is its acceptance, with the record of R38 and its own checks. -/
theorem exec_long {s : State} {i : Instr} {c : InFlight} (h : flightOf s i = some c) :
    exec i s = .next (s.acceptLong c (s.checksOf i)) := by
  cases i <;> cases h <;> rfl

/-- Two checks in a row that record one code are one check. -/
theorem firstFailing_same_code (c : ErrCode) (a b : Bool) :
    firstFailing [(c, a), (c, b)] = firstFailing [(c, a || b)] := by
  cases a <;> rfl

theorem tablesCompleteChecks_pass_iff (s : State) :
    (∀ d ∈ tablesCompleteChecks s, d.2 = false) ↔ ¬ causeHolds s .commit .seqIncomplete := by
  have hcause : ¬ causeHolds s .commit .seqIncomplete ↔
      (∀ r, (s.work r).valid = true) ∧ ∀ r r', (s.work r).scheme = (s.work r').scheme := by
    simp [causeHolds]
  rw [hcause]
  exact ⟨tablesCompleteChecks_pass, fun ⟨hv, hs⟩ => tablesCompleteChecks_of_complete hv hs⟩

section Groups

open Classical

variable (s : State) (i : Instr)

theorem firstFailing_busy (h : isLong i = true) : firstFailing [(.cmdBusy, s.inflight.isSome)] =
    [ErrCode.cmdBusy].find? fun e => decide (causeHolds s i e) := by
  refine firstFailing_eq_find? (List.forall_mem_singleton.mpr ?_)
  simp [causeHolds, h, ← Option.isSome_iff_ne_none]

theorem firstFailing_bounds :
    firstFailing (if readsBounds i then thresholdChecks (s.snapshot .run .low 0#16) else []) =
      [.cfgRange, .cfgMinZero, .cfgMinGeMax, .cfgNumBars].find? fun e => decide (causeHolds s i e) := by
  rcases h : readsBounds i with _ | _
  · simp [causeHolds, h, firstFailing]
  · refine firstFailing_eq_find? ?_
    simp [thresholdChecks, causeHolds, h, State.snapshot, BitVec.lt_def, BitVec.le_def, ← BitVec.toNat_inj]

theorem firstFailing_scheme :
    firstFailing (if readsScheme i then schemeChecks (s.snapshot .run .low 0#16) else []) =
      [ErrCode.cfgScheme].find? fun e => decide (causeHolds s i e) := by
  rcases h : readsScheme i with _ | _
  · simp [causeHolds, h, firstFailing]
  · refine firstFailing_eq_find? ?_
    simp [schemeChecks, causeHolds, h, State.snapshot, BitVec.lt_def]

theorem firstFailing_thresholdsPresent :
    firstFailing (if needsThresholds i then thresholdsPresentChecks s else []) =
      [ErrCode.seqNoThr].find? fun e => decide (causeHolds s i e) := by
  rcases h : needsThresholds i with _ | _
  · simp [causeHolds, h, firstFailing]
  · refine firstFailing_eq_find? ?_
    simp [thresholdsPresentChecks, causeHolds, h]

/-- COMMIT's two checks record one code: a table is not valid, or two tables were built with different schemes. -/
theorem firstFailing_tablesComplete :
    firstFailing (if i = .commit then tablesCompleteChecks s else []) =
      [ErrCode.seqIncomplete].find? fun e => decide (causeHolds s i e) := by
  by_cases h : i = .commit
  · subst h
    rw [if_pos rfl, tablesCompleteChecks, firstFailing_same_code]
    refine firstFailing_eq_find? (List.forall_mem_singleton.mpr ?_)
    rw [Bool.eq_iff_iff, decide_eq_true_iff, ← not_iff_not, ← tablesCompleteChecks_pass_iff]
    simp [tablesCompleteChecks]
  · simp [causeHolds, h, firstFailing]

/-- The checks of a long command, CMD_BUSY first, stop at the first cause of R171's order. -/
theorem firstFailing_checksOf (h : isLong i = true) :
    firstFailing ((.cmdBusy, s.inflight.isSome) :: s.checksOf i) = s.firstCause i := by
  have horder : checkOrder = [.cmdBusy] ++ ([.cfgRange, .cfgMinZero, .cfgMinGeMax, .cfgNumBars] ++ [.cfgScheme] ++
    [.seqNoThr] ++ [.seqIncomplete]) := rfl
  rw [← List.singleton_append, State.checksOf, State.firstCause, horder]
  simp only [firstFailing_append, List.find?_append, firstFailing_busy s i h, firstFailing_bounds, firstFailing_scheme,
    firstFailing_thresholdsPresent, firstFailing_tablesComplete]

end Groups

/-! ### Acceptance and rejection (R150, R171) -/

theorem isSome_flightOf (s : State) (i : Instr) : (flightOf s i).isSome = isLong i := by
  cases i <;> rfl

theorem isLong_of_flightOf {s : State} {i : Instr} {c : InFlight} (h : flightOf s i = some c) : isLong i = true := by
  rw [← isSome_flightOf s, h, Option.isSome_some]

/-- A long command for which no cause holds is put in flight. -/
theorem exec_long_of_no_cause {s : State} {i : Instr} {c : InFlight} (hf : flightOf s i = some c)
    (h : s.firstCause i = none) : exec i s = .next { s with inflight := some c } := by
  rw [exec_long hf, State.acceptLong, firstFailing_checksOf s i (isLong_of_flightOf hf), h]

theorem exec_long_of_firstCause {s : State} {i : Instr} {c : InFlight} {e : ErrCode} (hf : flightOf s i = some c)
    (h : s.firstCause i = some e) : exec i s = .next (s.raise e) := by
  rw [exec_long hf, State.acceptLong, firstFailing_checksOf s i (isLong_of_flightOf hf), h]

/-- The checks besides CMD_BUSY are made by long commands only (the column "raised by" of R170). -/
theorem no_own_checks_of_not_long {i : Instr} (hi : isLong i = false) :
    readsBounds i = false ∧ readsScheme i = false ∧ needsThresholds i = false ∧ i ≠ .commit := by
  cases i <;> simp [isLong, readsBounds, readsScheme, needsThresholds] at hi ⊢

/-- Of the immediate commands only SRESET can be rejected, and only with CMD_BUSY (R158, R170). -/
theorem causeHolds_of_not_long {s : State} {i : Instr} {e : ErrCode} (hi : isLong i = false) (h : causeHolds s i e) :
    i = .sreset ∧ e = .cmdBusy ∧ s.inflight ≠ none := by
  obtain ⟨hbounds, hscheme, hthr, hcommit⟩ := no_own_checks_of_not_long hi
  cases e with
  | cmdBusy => simpa [causeHolds, hi] using h
  | _ => simp [causeHolds, hbounds, hscheme, hthr, hcommit] at h

/-- A command for which some cause holds records the first of them and does nothing else. -/
theorem exec_of_firstError {s : State} {i : Instr} {e : ErrCode} (h : FirstError s i e) :
    exec i s = .next (s.raise e) := by
  rcases hf : flightOf s i with _ | c
  · obtain ⟨-, -, -, hcause, -⟩ := h
    obtain ⟨rfl, rfl, hbusy⟩ := causeHolds_of_not_long (by rw [← isSome_flightOf s, hf, Option.isSome_none]) hcause
    exact exec_sreset_busy hbusy
  · exact exec_long_of_firstCause hf (firstError_iff.mp h)

theorem State.onCmdWrite_of_illegal {s : State} {w : Word} (h : WellFormed.legalWord w = false) :
    s.onCmdWrite w = .next (s.raise .cmdIllegal) := by
  rcases hd : decode w with e | i
  · exact onCmdWrite_error hd
  · exact absurd ((exists_decode_ok_iff w).mp ⟨i, hd⟩) (by rw [h]; exact Bool.false_ne_true)

/-- Settles O15: a command's checks, CMD_BUSY first, find the first cause of the order. -/
theorem checksAreMadeInTheFixedOrder : Obligations.ChecksAreMadeInTheFixedOrder := by
  refine ⟨fun s t hl => ?_, fun s w hw => State.onCmdWrite_of_illegal hw, fun s i c h => exec_of_firstError h,
    fun s i c hnone hf => exec_long_of_no_cause hf (State.firstCause_eq_none hnone)⟩
  rw [State.transact, hl, if_neg Bool.false_ne_true]
  rfl

end Sys2Proof.Machine
end

section
/-! Reset (R158, R190): the reset input and an idle SRESET, and what the host reads after them. -/

namespace Sys2Proof.Machine

/-! ### The reset event (R158, R190) -/

/-- Settles O12: the reset input and SRESET of an idle block are both the reset event. -/
theorem resetInputGivesTheResetState : Obligations.ResetInputGivesTheResetState :=
  ⟨fun _ _ hp => step_reset hp, fun _ hi => exec_sreset_idle hi⟩

/-! ### Reads after a reset -/

/-- Each register and each entry of the THR window is 0 at reset, and nothing else is mapped below OUT. -/
theorem State.wordAt_reset (a : Nat) : State.reset.wordAt a = 0#32 := by
  obtain ⟨hmin, hmax, hbars, hscheme, hresult, hthrN, -⟩ := resetStateIsAllZero
  simp only [wordAt, status_reset, hmin, hmax, hbars, hscheme, hresult, hthrN, thrAt_reset, BitVec.setWidth_zero,
    ite_self]

/-- Below the OUT window every word is 0, and the memory of OUT is empty. -/
theorem State.byteAt_reset (a : Nat) : State.reset.byteAt a = 0#8 := by
  have hout : State.reset.out.read a = 0#8 := rfl
  rw [byteAt, wordAt_reset, hout, BitVec.extractLsb'_zero, ite_self, ite_self]

/-- Settles O13: the step is the reset event, and a read sees neither the inputs nor the last answer that it keeps. -/
theorem everyAddressReadsZeroAfterReset : Obligations.EveryAddressReadsZeroAfterReset := by
  intro s t rest hp hstep
  cases (step_reset hp).symm.trans hstep
  exact ⟨State.status_resetEvent _, State.byteAt_reset⟩

end Sys2Proof.Machine
end

section
/-! A block with a command in flight (R194, R195): it rejects long commands and SRESET, and no host transaction changes a result or the record in
flight. -/

namespace Sys2Proof.Machine

/-! ### CMD_BUSY (R171, R194) -/

/-- CMD_BUSY is the first of the checks. -/
theorem firstError_cmdBusy {s : State} {i : Instr} (hbusy : s.inflight ≠ none) (hi : isLong i = true ∨ i = .sreset) :
    FirstError s i .cmdBusy := ⟨[], _, rfl, ⟨hi, hbusy⟩, nofun⟩

/-- A completion neither reads nor writes ERR (R152). -/
theorem completeRecord_err (c : InFlight) (s : State) (e : ErrCode) :
    completeRecord c { s with err := e } = { completeRecord c s with err := e } := by
  rw [completeRecord, completeRecord]
  cases c.op <;> rfl

/-- Settles O16: CMD_BUSY is the first cause, and the completion does not read the ERR it leaves. -/
theorem busyBlockRejectsLongCommandsAndSreset : Obligations.BusyBlockRejectsLongCommandsAndSreset := by
  intro s i c hc hi
  have hbusy : s.inflight ≠ none := by rw [hc]; exact Option.some_ne_none c
  refine ⟨s.raise .cmdBusy, exec_of_firstError (firstError_cmdBusy hbusy hi), rfl, ?_⟩
  rw [State.engineTurn_flight hc, State.engineTurn_flight (c := c) ((s.raise_inflight _).trans hc)]
  exact completeRecord_err c s _

/-! ### Results while a command is in flight (R195) -/

/-- `t` has the results of `s`, and the same command in flight. The configuration, the sticky fields and the bus may differ. -/
structure SameResults (s t : State) : Prop extends SameTables s t where
  result : t.result = s.result
  inflight : t.inflight = s.inflight

theorem SameResults.refl (s : State) : SameResults s s := ⟨.refl s, rfl, rfl⟩

theorem SameResults.of_pending {s t : State} {es : List Event} (h : SameResults { s with pending := es } t) :
    SameResults s t := ⟨(sameTables_pending s es).trans h.toSameTables, h.result, h.inflight⟩

theorem SameResults.respond {s t : State} (h : SameResults s t) (r : Response) : SameResults s (t.respond r) :=
  ⟨h.toSameTables.trans (sameTables_respond t r), h.result, h.inflight⟩

theorem sameResults_raise (s : State) (e : ErrCode) : SameResults s (s.raise e) := ⟨sameTables_raise s e, rfl, rfl⟩

theorem sameResults_clearSticky (s : State) : SameResults s s.clearSticky := ⟨sameTables_clearSticky s, rfl, rfl⟩

theorem sameResults_writeRegister (s : State) (a : Nat) (v : Word) : SameResults s (s.writeRegister a v) :=
  ⟨sameTables_writeRegister s a v, s.writeRegister_result a v, s.writeRegister_inflight a v⟩

/-- A command written while another is in flight is rejected, or is NOP or CLRERR. -/
theorem exec_busy_sameResults {i : Instr} {s t : State} (hbusy : s.inflight.isSome = true) (h : exec i s = .next t) :
    SameResults s t := by
  obtain ⟨op, r, arg, cs, ht⟩ | ⟨-, ht⟩ | ⟨-, ht⟩ | ⟨-, -, ht⟩ | ⟨-, hidle, -⟩ := exec_cases i s
  · cases h.symm.trans ht
    rw [State.acceptLong_of_busy hbusy]
    exact sameResults_raise s _
  · cases h.symm.trans ht; exact .refl s
  · cases h.symm.trans ht; exact sameResults_clearSticky s
  · cases h.symm.trans ht; exact sameResults_raise s _
  · rw [hidle] at hbusy; cases hbusy

theorem transact_busy_sameResults {s t : State} {tr : Transaction} (hbusy : s.inflight.isSome = true)
    (h : s.transact tr = .next t) : SameResults s t := by
  obtain ⟨-, ht⟩ | ⟨-, a, w, -, ht⟩ | ⟨-, a, w, v, e, -, -, -, ht⟩ | ⟨-, a, w, v, i, -, -, -, ht⟩ |
    ⟨-, a, w, v, -, -, ht⟩ := s.transact_cases tr <;> rw [ht] at h
  · cases h; exact (sameResults_raise s _).respond _
  · cases h; exact (SameResults.refl s).respond _
  · cases h; exact (sameResults_raise s _).respond _
  · obtain ⟨u, hu, -⟩ := exec_next i s
    rw [hu] at h; cases h
    exact (exec_busy_sameResults hbusy hu).respond _
  · cases h; exact (sameResults_writeRegister s _ v).respond _

/-- Above the configuration registers the words are RESULT, THR_N and the THR window (R52). -/
theorem State.wordAt_above_configuration (s : State) {a : Nat} (ha : 0x18 ≤ a) : s.wordAt a =
    if a = addrResult then s.result
    else if a = addrThrN then s.thrN
    else if thrBase ≤ a ∧ a < thrEnd then (s.thrAt ((a - thrBase) / 4)).setWidth 32
    else 0#32 := by
  unfold wordAt addrStatus addrMinFreq addrMaxFreq addrNumBars addrScheme
  rw [if_neg (by omega), if_neg (by omega), if_neg (by omega), if_neg (by omega), if_neg (by omega)]

/-- Above the configuration registers the host reads results alone. -/
theorem SameResults.byteAt {s t : State} (h : SameResults s t) {a : Nat} (ha : 0x18 ≤ a) :
    t.byteAt a = s.byteAt a := by
  have hword : t.wordAt (a - a % 4) = s.wordAt (a - a % 4) := by
    rw [t.wordAt_above_configuration (by omega), s.wordAt_above_configuration (by omega), State.thrAt, State.thrAt,
      h.result, h.thrN, h.thr]
  rw [State.byteAt, State.byteAt, hword, h.out]

/-- Settles O29: a transaction of a busy block keeps the results, and a legal read keeps the rest too. -/
theorem resultsKeepTheirOldValuesUntilCompletion : Obligations.ResultsKeepTheirOldValuesUntilCompletion := by
  intro s u c t rest hc hp hstep
  have hbusy : s.inflight.isSome = true := by rw [hc]; rfl
  have hsame : SameResults s u :=
    (transact_busy_sameResults (s := { s with pending := rest }) hbusy ((step_bus hp).symm.trans hstep)).of_pending
  refine ⟨hsame.inflight.trans hc, hsame.result, hsame.thrN, hsame.thr, hsame.out, hsame.thrValid, hsame.work,
    hsame.outValid, hsame.outScheme, fun a => hsame.byteAt, ?readErr⟩
  case readErr =>
    rintro a w rfl hl
    cases (step_read hp hl).symm.trans hstep
    rfl

end Sys2Proof.Machine
end

section
/-! RUN against GEN_THR, the three BUILDs and COMMIT (R193): each command of an idle block, from its CMD write to its completion, is one operation on
the state. -/

namespace Sys2Proof.Machine

/-! ### The inputs and the last answer -/

/-- `s` with other inputs to come and another last answer of the bus: the two items that are no state of the block. -/
def State.withBus (s : State) (es : List Event) (a : Option Response) : State := { s with pending := es, response := a }

theorem State.withBus_err (s : State) (es : List Event) (a : Option Response) : (s.withBus es a).err = s.err := rfl

theorem State.withBus_inflight (s : State) (es : List Event) (a : Option Response) :
    (s.withBus es a).inflight = s.inflight := rfl

/-- A completion reads neither the inputs nor the last answer. -/
theorem completeRecord_withBus (c : InFlight) (s : State) (es : List Event) (a : Option Response) :
    completeRecord c (s.withBus es a) = (completeRecord c s).withBus es a := by
  rw [completeRecord, completeRecord]
  cases c.op <;> rfl

/-! ### What RUN's operations keep -/

theorem State.finish_of_idle {s : State} (hi : s.inflight = none) : s.finish = s := by
  rw [finish, ← hi]

theorem State.buildAll_err (s : State) (sch : Scheme) : (s.buildAll sch).err = s.err := by simp [buildAll]

theorem State.buildAll_inflight (s : State) (sch : Scheme) : (s.buildAll sch).inflight = s.inflight := by
  simp [buildAll]

/-! ### The commands of an idle block, one by one -/

/-- A command that is accepted completes at the engine's turn, if that comes next. -/
theorem run_accepted {s : State} {i : Instr} {c : InFlight} {rest : List Event} {a : Option Response}
    (haccept : exec i (s.withBus (.engine :: rest) a) =
      .next { s.withBus (.engine :: rest) a with inflight := some c }) :
    Host.Core.run Sys2Proof.core 2 (s.withBus (cmdWrite i :: .engine :: rest) a) =
      .next ((completeRecord c s).withBus rest (some (.okay none))) := by
  have hwrite := step_cmdWrite (s := s.withBus (cmdWrite i :: .engine :: rest) a) rfl haccept
  have hcomplete := step_completes (s := s.withBus (.engine :: rest) (some (.okay none))) rfl c
  rw [completeRecord_withBus] at hcomplete
  exact (run_succ hwrite 1).trans (run_succ hcomplete 0)

section Idle

variable {s : State} (hi : s.inflight = none) {rest : List Event} {a : Option Response}
include hi

theorem run_genThr (hc : LegalConfig s.minFreq s.maxFreq s.numBars) :
    Host.Core.run Sys2Proof.core 2 (s.withBus (cmdWrite .genThr :: .engine :: rest) a) =
      .next ((s.writeThresholds s.minFreq s.maxFreq s.numBars).withBus rest (some (.okay none))) := by
  have hrecord : completeRecord (s.snapshot .genThr .low 0#16) s = s.writeThresholds s.minFreq s.maxFreq s.numBars :=
    State.finish_of_idle hi
  rw [← hrecord]
  exact run_accepted (exec_genThr_accepted (s := s.withBus (.engine :: rest) a) hi hc)

theorem run_build {w : Word} (hw : s.scheme = w) (hscheme : w.toNat ≤ 1) (hv : s.thrValid = true) (r : Range) :
    Host.Core.run Sys2Proof.core 2 (s.withBus (cmdWrite (.build r) :: .engine :: rest) a) =
      .next ((s.buildTable (schemeOfWord w) r).withBus rest (some (.okay none))) := by
  subst hw
  have hrecord : completeRecord (s.snapshot .build r 0#16) s = s.buildTable (schemeOfWord s.scheme) r :=
    State.finish_of_idle hi
  rw [← hrecord]
  exact run_accepted (exec_build_accepted (s := s.withBus (.engine :: rest) a) hi hscheme hv r)

theorem run_commit (hv : ∀ r, (s.work r).valid = true) (hs : ∀ r r', (s.work r).scheme = (s.work r').scheme) :
    Host.Core.run Sys2Proof.core 2 (s.withBus (cmdWrite .commit :: .engine :: rest) a) =
      .next ((s.serialize s.low.scheme).withBus rest (some (.okay none))) := by
  have hrecord : completeRecord (s.snapshot .commit .low 0#16) s = s.serialize s.low.scheme := State.finish_of_idle hi
  rw [← hrecord]
  exact run_accepted (exec_commit_accepted (s := s.withBus (.engine :: rest) a) hi hv hs)

theorem run_run (hc : LegalConfig s.minFreq s.maxFreq s.numBars) (hscheme : s.scheme.toNat ≤ 1) :
    Host.Core.run Sys2Proof.core 2 (s.withBus (cmdWrite .run :: .engine :: rest) a) =
      .next ((((s.writeThresholds s.minFreq s.maxFreq s.numBars).buildAll (schemeOfWord s.scheme)).serialize
        (schemeOfWord s.scheme)).withBus rest (some (.okay none))) := by
  have hrecord : completeRecord (s.snapshot .run .low 0#16) s =
      ((s.writeThresholds s.minFreq s.maxFreq s.numBars).buildAll (schemeOfWord s.scheme)).serialize
        (schemeOfWord s.scheme) := by
    refine State.finish_of_idle ?_
    rw [State.serialize_inflight, State.buildAll_inflight]
    exact hi
  rw [← hrecord]
  exact run_accepted (exec_run_accepted (s := s.withBus (.engine :: rest) a) hi hc hscheme)

/-! ### The pipeline (R193) -/

/-- The three BUILDs, one after the other, are RUN's builds: none changes what the next one's acceptance looks at. -/
theorem run_builds (hscheme : s.scheme.toNat ≤ 1) (hv : s.thrValid = true) :
    Host.Core.run Sys2Proof.core 6 (s.withBus (cmdWrite (.build .low) :: .engine :: cmdWrite (.build .mid) :: .engine ::
      cmdWrite (.build .high) :: .engine :: rest) a) =
      .next ((s.buildAll (schemeOfWord s.scheme)).withBus rest (some (.okay none))) := by
  refine (run_add (run_build hi rfl hscheme hv .low) 4).trans ?_
  refine (run_add (run_build (by simp [hi]) (by simp) hscheme (by simp [hv]) .mid) 2).trans ?_
  exact run_build (by simp [hi]) (by simp) hscheme (by simp [hv]) .high

/-- COMMIT after the builds serializes with the scheme they were built with. -/
theorem run_commit_buildAll (sch : Scheme) :
    Host.Core.run Sys2Proof.core 2 ((s.buildAll sch).withBus (cmdWrite .commit :: .engine :: rest) a) =
      .next (((s.buildAll sch).serialize sch).withBus rest (some (.okay none))) := by
  have hbuilt := s.work_buildAll_built sch
  have hlow : (s.buildAll sch).low.scheme = sch := (hbuilt .low).2
  have hidle : (s.buildAll sch).inflight = none := (s.buildAll_inflight sch).trans hi
  have hrun := run_commit hidle (rest := rest) (a := a) (fun r => (hbuilt r).1)
    fun r r' => (hbuilt r).2.trans (hbuilt r').2.symm
  rwa [hlow] at hrun

/-- GEN_THR, the three BUILDs and COMMIT do what RUN does in one completion. -/
theorem run_pipeline (hc : LegalConfig s.minFreq s.maxFreq s.numBars) (hscheme : s.scheme.toNat ≤ 1) :
    Host.Core.run Sys2Proof.core 10 (s.withBus ([cmdWrite .genThr, .engine, cmdWrite (.build .low), .engine,
        cmdWrite (.build .mid), .engine, cmdWrite (.build .high), .engine, cmdWrite .commit, .engine] ++ rest) a) =
      .next ((((s.writeThresholds s.minFreq s.maxFreq s.numBars).buildAll (schemeOfWord s.scheme)).serialize
        (schemeOfWord s.scheme)).withBus rest (some (.okay none))) := by
  refine (run_add (run_genThr hi hc) 8).trans ?_
  refine (run_add (run_builds (s := s.writeThresholds _ _ _) hi hscheme rfl) 2).trans ?_
  exact run_commit_buildAll (s := s.writeThresholds _ _ _) hi _

end Idle

/-- Settles O49: both routes write the thresholds, build the three tables over them and serialize these. -/
theorem runEqualsTheStepByStepPipeline : Obligations.RunEqualsTheStepByStepPipeline := by
  intro s rest hi hc hscheme
  refine ⟨_, run_run (a := s.response) hi hc hscheme, run_pipeline (a := s.response) hi hc hscheme, rfl, ?idle, ?err,
    rfl⟩
  case idle => rw [State.withBus_inflight, State.serialize_inflight, State.buildAll_inflight,
    State.writeThresholds_inflight, hi]
  case err => rw [State.withBus_err, State.serialize_err, State.buildAll_err, State.writeThresholds_err]

end Sys2Proof.Machine
end

section
/-! The sample words (R71, R73): those of commands are the encoder's words, and each of the others fails the check of R73 that its error names. -/

namespace Sys2Proof.Machine

/-! ### Words of commands -/

theorem decode_eq_ok_of_encode {w : Word} {i : Instr} (h : encode i = w) : decode w = .ok i :=
  h ▸ decodeOfEncodeIsTheCommand i

/-! ### Words that fail a check of R73 -/

/-- An assigned opcode with a bit of RSV set. -/
theorem decode_eq_reservedBits {w : Word} (hop : ¬ 9#4 ≤ opField w) (hrsv : rsvField w ≠ 0#10) :
    decode w = .error .reservedBits := by
  rw [decode, if_neg hop, if_pos hrsv]

/-- BUILD with RANGE = 3. -/
theorem decode_build_eq_rangeReserved {w : Word} (hop : opField w = 2#4) (hrsv : rsvField w = 0#10)
    (hrange : rangeField w = 3#2) : decode w = .error .rangeReserved := by
  have hnone : rangeOfField (rangeField w) = none := (rangeOfField_eq_none_iff _).mpr hrange
  simp [decode, hop, hrsv, decodeBuild, hnone]

/-- QFREQ of a range with a bit of ARG[15:8] set. -/
theorem decode_qfreq_eq_indexTooWide {w : Word} {r : Range} (hop : opField w = 6#4) (hrsv : rsvField w = 0#10)
    (hrange : rangeField w = fieldOfRange r) (hidx : (argField w).extractLsb' 8 8 ≠ 0#8) :
    decode w = .error .indexTooWide := by
  simp [decode, hop, hrsv, decodeQfreq, hrange, hidx]

/-- Settles O4: nine of the words are what the encoder writes for their commands; 0x32 names RANGE 3, 0x42 sets bit 6, and 0x01000006 asks for
index 256. -/
theorem sampleWordsDecode : Obligations.SampleWordsDecode :=
  ⟨decode_eq_ok_of_encode rfl, decode_eq_ok_of_encode rfl, decode_eq_ok_of_encode rfl, decode_eq_ok_of_encode rfl,
    decode_eq_ok_of_encode rfl, decode_eq_ok_of_encode rfl, decode_eq_ok_of_encode rfl, decode_eq_ok_of_encode rfl,
    decode_eq_ok_of_encode rfl, decode_build_eq_rangeReserved rfl rfl rfl,
    decode_eq_reservedBits (by decide) (by decide), decode_qfreq_eq_indexTooWide (r := .low) rfl rfl rfl (by decide)⟩

end Sys2Proof.Machine
end
